-- ==== Sys2Proof/Word.lean ====
section
/-! DEFINITION. The word types of the block: what the spec itself treats as bits. -/

namespace Sys2Proof

/-- An 8-bit value: a table byte, a received or transmitted byte, an ASCII code (R20, R23). -/
abbrev Byte := BitVec 8

/-- A 5-bit Baudot code, which is also an index into a table bank (R19, R67). -/
abbrev Code := BitVec 5

/-- The 24-bit command word `cmd[23:0]` (R28). -/
abbrev Cmd := BitVec 24

/-- The 16-bit response `rsp_data[15:0]`, and the width of every readable register (R29, R16, R17). -/
abbrev Rsp := BitVec 16

end Sys2Proof
end

