-- ==== Sys2Proof/Syntax.lean ====
section
/-! DEFINITION. The sixteen commands of R30 as ONE inductive, the closed sets of names their operands use, and the
assembler lines of R34 and R35 with their operands as the plain numbers a host writes. -/

namespace Sys2Proof

/-- The two shift states (R13): 0 `LTRS`, 1 `FIGS`. -/
inductive ShiftState where
  | ltrs | figs
deriving DecidableEq, Repr

/-- The two directions of SETSH (R30): 0 send, 1 receive. -/
inductive Dir where
  | send | receive
deriving DecidableEq, Repr

/-- The two banks of a translation table (R19): 0 letters, 1 figures. -/
inductive Bank where
  | letters | figures
deriving DecidableEq, Repr

/-- A data width bit (R8): 0 means 5 data bits, 1 means 8. -/
inductive DataWidth where
  | five | eight
deriving DecidableEq, Repr

/-- The commands: one constructor per row of opcode_table.json. Every operand has the exact width of its field in
R30, so every term is an encodable command; operands the block refuses as reserved selectors (RDREG 6 and 7,
`tsel` 7, R32) are terms too, because the block answers them. -/
inductive Instr where
  | nop
  | txput (byte : Byte)
  | rxget
  | rdreg (reg : BitVec 3)
  | clrst (mask : BitVec 5)
  | setdiv (value : BitVec 16)
  | setwid (rx8 tx8 : DataWidth)
  | sendbrk
  | enc (ascii : Byte)
  | dec (code : Code)
  | setsh (dir : Dir) (state : ShiftState)
  | setusos (u : Bool)
  | setsel (value : Byte)
  | tblwr (tsel : BitVec 3) (bank : Bank) (idx : Code) (byte : Byte)
  | tblrd (tsel : BitVec 3) (bank : Bank) (idx : Code)
  | relay (on : Bool)
deriving DecidableEq, Repr

/-- One line of the spec's assembly syntax: the sixteen mnemonics of R34, then the pseudo-instructions of R35.
Number operands are unbounded, as a host may write them; `AsmLine.wf` says which lines an assembler accepts. -/
inductive AsmLine where
  | nop
  | txput (byte : Nat)
  | rxget
  | rdreg (reg : Nat)
  | clrst (mask : Nat)
  | setdiv (value : Nat)
  | setwid (rxw txw : Nat)
  | sendbrk
  | enc (byte : Nat)
  | dec (code : Nat)
  | setsh (dir : Dir) (state : ShiftState)
  | setusos (u : Nat)
  | setsel (value : Nat)
  | tblwr (tsel : Nat) (bank : Bank) (idx byte : Nat)
  | tblrd (tsel : Nat) (bank : Bank) (idx : Nat)
  | relay (on : Bool)
  | idle
  | wait (n : Nat)
  | clrall
  | setbaud (r : Nat)
  | mode5
  | mode8
  | shiftl
  | shiftf
  | poweron
  | poweroff
  | poll (reg mask value : Nat)
deriving DecidableEq, Repr

end Sys2Proof
end

