-- ==== Sys2Proof/Decode.lean ====
section
/-! DEFINITION. The command encoding of 30_encoding.md: the decoder, total on every 24-bit word and rejecting by
name (R28, R30, R31), and after it the encoder (R30, R34) and the mask and match rows of opcode_table.json. -/

namespace Sys2Proof

/-- `cmd[lo + len - 1 : lo]`. -/
def field (w : Cmd) (lo len : Nat) : BitVec len := w.extractLsb' lo len

/-- The opcode `op`, bits 23:20 (R28). -/
def opcodeOf (w : Cmd) : BitVec 4 := field w 20 4

/-- The one way a word can fail to be a command (R31): its opcode is assigned (R32: all sixteen are) but a reserved
bit is 1. The block answers it with `CmdError(RSVD_BITS)`. -/
inductive DecodeError where
  | reservedBits
deriving DecidableEq, Repr

/-- The reserved positions of each opcode's pattern (R30) are all 0. -/
def reservedZero (w : Cmd) : Bool :=
  match (opcodeOf w).toNat with
  | 0  => field w 0 20 == 0
  | 1  => field w 8 12 == 0
  | 2  => field w 0 20 == 0
  | 3  => field w 3 17 == 0
  | 4  => field w 13 7 == 0 && field w 0 8 == 0
  | 5  => field w 16 4 == 0
  | 6  => field w 2 18 == 0
  | 7  => field w 0 20 == 0
  | 8  => field w 8 12 == 0
  | 9  => field w 5 15 == 0
  | 10 => field w 2 18 == 0
  | 11 => field w 1 19 == 0
  | 12 => field w 8 12 == 0
  | 13 => field w 17 3 == 0
  | 14 => field w 17 3 == 0 && field w 0 8 == 0
  | _  => field w 1 19 == 0

/-- A width bit (R8, R30): 0 is 5 data bits, 1 is 8. -/
def DataWidth.ofBit (b : BitVec 1) : DataWidth := if b = 1 then .eight else .five

/-- A shift-state bit (R30): 0 `LTRS`, 1 `FIGS`. -/
def ShiftState.ofBit (b : BitVec 1) : ShiftState := if b = 1 then .figs else .ltrs

/-- A direction bit (R30): 0 send, 1 receive. -/
def Dir.ofBit (b : BitVec 1) : Dir := if b = 1 then .receive else .send

/-- A bank bit (R30): 0 letters, 1 figures. -/
def Bank.ofBit (b : BitVec 1) : Bank := if b = 1 then .figures else .letters

/-- The fields column of R30. -/
def operands (w : Cmd) : Instr :=
  match (opcodeOf w).toNat with
  | 0  => .nop
  | 1  => .txput (field w 0 8)
  | 2  => .rxget
  | 3  => .rdreg (field w 0 3)
  | 4  => .clrst (field w 8 5)
  | 5  => .setdiv (field w 0 16)
  | 6  => .setwid (DataWidth.ofBit (field w 0 1)) (DataWidth.ofBit (field w 1 1))
  | 7  => .sendbrk
  | 8  => .enc (field w 0 8)
  | 9  => .dec (field w 0 5)
  | 10 => .setsh (Dir.ofBit (field w 1 1)) (ShiftState.ofBit (field w 0 1))
  | 11 => .setusos (field w 0 1 == 1)
  | 12 => .setsel (field w 0 8)
  | 13 => .tblwr (field w 14 3) (Bank.ofBit (field w 13 1)) (field w 8 5) (field w 0 8)
  | 14 => .tblrd (field w 14 3) (Bank.ofBit (field w 13 1)) (field w 8 5)
  | _  => .relay (field w 0 1 == 1)

/-- Decode one command word (R28, R30, R31). -/
def decode (w : Cmd) : Except DecodeError Instr :=
  if reservedZero w then .ok (operands w) else .error .reservedBits

/-- The bit of a width (R8, R30). -/
def DataWidth.toNat : DataWidth → Nat
  | .five => 0
  | .eight => 1

/-- The bit of a shift state (R13, R30). -/
def ShiftState.toNat : ShiftState → Nat
  | .ltrs => 0
  | .figs => 1

/-- The bit of a direction (R30). -/
def Dir.toNat : Dir → Nat
  | .send => 0
  | .receive => 1

/-- The number of a bank (R19, R30). -/
def Bank.toNat : Bank → Nat
  | .letters => 0
  | .figures => 1

/-- The number a command word is, by the "encoded as" column of R34. -/
def encodeNat : Instr → Nat
  | .nop => 0x000000
  | .txput b => 0x100000 + b.toNat
  | .rxget => 0x200000
  | .rdreg r => 0x300000 + r.toNat
  | .clrst m => 0x400000 + m.toNat * 0x100
  | .setdiv v => 0x500000 + v.toNat
  | .setwid r t => 0x600000 + 2 * t.toNat + r.toNat
  | .sendbrk => 0x700000
  | .enc b => 0x800000 + b.toNat
  | .dec c => 0x900000 + c.toNat
  | .setsh d q => 0xA00000 + 2 * d.toNat + q.toNat
  | .setusos u => 0xB00000 + u.toNat
  | .setsel v => 0xC00000 + v.toNat
  | .tblwr t k i b => 0xD00000 + t.toNat * 0x4000 + k.toNat * 0x2000 + i.toNat * 0x100 + b.toNat
  | .tblrd t k i => 0xE00000 + t.toNat * 0x4000 + k.toNat * 0x2000 + i.toNat * 0x100
  | .relay on => 0xF00000 + on.toNat

/-- The command word of a command (R30, R34). -/
def encode (i : Instr) : Cmd := BitVec.ofNat 24 (encodeNat i)

/-- The opcode column of R30. -/
def Instr.opcode : Instr → BitVec 4
  | .nop => 0
  | .txput _ => 1
  | .rxget => 2
  | .rdreg _ => 3
  | .clrst _ => 4
  | .setdiv _ => 5
  | .setwid _ _ => 6
  | .sendbrk => 7
  | .enc _ => 8
  | .dec _ => 9
  | .setsh _ _ => 10
  | .setusos _ => 11
  | .setsel _ => 12
  | .tblwr _ _ _ _ => 13
  | .tblrd _ _ _ => 14
  | .relay _ => 15

/-- One row of opcode_table.json: `mask` has a 1 for every opcode bit and every reserved bit, `pattern` is the opcode
with the reserved bits 0. -/
structure OpcodeRow where
  mnemonic : String
  mask     : Cmd
  pattern  : Cmd
deriving DecidableEq, Repr

/-- opcode_table.json's sixteen rows (30_encoding.md sections 2 and 3). -/
def opcodeTable : List OpcodeRow :=
  [ ⟨"NOP",     0xFFFFFF, 0x000000⟩, ⟨"TXPUT",   0xFFFF00, 0x100000⟩,
    ⟨"RXGET",   0xFFFFFF, 0x200000⟩, ⟨"RDREG",   0xFFFFF8, 0x300000⟩,
    ⟨"CLRST",   0xFFE0FF, 0x400000⟩, ⟨"SETDIV",  0xFF0000, 0x500000⟩,
    ⟨"SETWID",  0xFFFFFC, 0x600000⟩, ⟨"SENDBRK", 0xFFFFFF, 0x700000⟩,
    ⟨"ENC",     0xFFFF00, 0x800000⟩, ⟨"DEC",     0xFFFFE0, 0x900000⟩,
    ⟨"SETSH",   0xFFFFFC, 0xA00000⟩, ⟨"SETUSOS", 0xFFFFFE, 0xB00000⟩,
    ⟨"SETSEL",  0xFFFF00, 0xC00000⟩, ⟨"TBLWR",   0xFE0000, 0xD00000⟩,
    ⟨"TBLRD",   0xFE00FF, 0xE00000⟩, ⟨"RELAY",   0xFFFFFE, 0xF00000⟩ ]

/-- The mnemonic column of R30. -/
def Instr.mnemonic : Instr → String
  | .nop => "NOP"
  | .txput _ => "TXPUT"
  | .rxget => "RXGET"
  | .rdreg _ => "RDREG"
  | .clrst _ => "CLRST"
  | .setdiv _ => "SETDIV"
  | .setwid _ _ => "SETWID"
  | .sendbrk => "SENDBRK"
  | .enc _ => "ENC"
  | .dec _ => "DEC"
  | .setsh _ _ => "SETSH"
  | .setusos _ => "SETUSOS"
  | .setsel _ => "SETSEL"
  | .tblwr _ _ _ _ => "TBLWR"
  | .tblrd _ _ _ => "TBLRD"
  | .relay _ => "RELAY"

/-- The instruction the decoder reads from the bits `w` of a command (bit 0 the least significant, as
opcode_table.json numbers them). A command is exactly one 24-bit word (R28), so `nbits` adds nothing: a shorter
row has zeros above, and a number of more than 24 bits is no command word. -/
def decodeTableWord (nbits w : Nat) : Option Instr :=
  if nbits ≤ 24 ∧ w < 2 ^ 24 then
    match decode (BitVec.ofNat 24 w) with
    | .ok i => some i
    | .error _ => none
  else none

end Sys2Proof
end

