-- ==== Sys2Proof/Config.lean ====
section
/-! DEFINITION. What is fixed for one machine (the parameters of R5), the fixed constants of R5, the values of
one step's input ports (R4), and the one free value of the model: the inputs nobody has written down. -/

namespace Sys2Proof

/-- The implementation parameters of R5. Each is typed with the width of the register it is loaded into;
`Params.wf` (WellFormed.lean) holds the constraints the types do not. -/
structure Params where
  /-- `F_STEP`: timer clock, steps per second. Only the label functions R43 and R44 read it. -/
  fStep      : Nat
  /-- `DIV_DEFAULT`: divisor at reset and the fallback for a zero divisor. -/
  divDefault : BitVec 16
  /-- `BREAK_TICKS`: length of a generated break, in steps. -/
  breakTicks : BitVec 17
  /-- `PHASE_TICKS`: length of one relay blink phase, in steps. -/
  phaseTicks : BitVec 16
  /-- `ON_ITERS`: blink iterations of the power-on sequence. -/
  onIters    : Nat
  /-- `OFF_ITERS`: blink iterations of the power-off sequence. -/
  offIters   : Nat
  /-- `LTRS_CODE`: the letters-shift code. -/
  ltrsCode   : Code
  /-- `FIGS_CODE`: the figures-shift code. -/
  figsCode   : Code
  /-- `UNUSED`: the table byte that marks an unused slot. -/
  unused     : Byte
  /-- `CANON_L`: letters bank of table 0 at reset, index 0 first. -/
  canonL     : List Byte
  /-- `CANON_F`: figures bank of table 0 at reset, index 0 first. -/
  canonF     : List Byte
deriving DecidableEq, Repr

/-- `CANON_L` of R75. -/
def canonLetters : List Byte :=
  [0x00, 0x45, 0x0A, 0x41, 0x20, 0x53, 0x49, 0x55, 0x0D, 0x44, 0x52, 0x4A, 0x4E, 0x46, 0x43, 0x4B] ++
  [0x54, 0x5A, 0x4C, 0x57, 0x48, 0x59, 0x50, 0x51, 0x4F, 0x42, 0x47, 0x00, 0x4D, 0x58, 0x56, 0x00]

/-- `CANON_F` of R75. -/
def canonFigures : List Byte :=
  [0x00, 0x33, 0x0A, 0x2D, 0x20, 0x07, 0x38, 0x37, 0x0D, 0x24, 0x34, 0x27, 0x2C, 0x21, 0x3A, 0x28] ++
  [0x35, 0x22, 0x29, 0x32, 0x23, 0x36, 0x30, 0x31, 0x39, 0x3F, 0x26, 0x00, 0x2E, 0x2F, 0x3B, 0x00]

/-- The default column of R5: the values this hardware takes. -/
def Params.standard : Params where
  fStep      := 83333
  divDefault := 1667
  breakTicks := 41667
  phaseTicks := 20833
  onIters    := 8
  offIters   := 6
  ltrsCode   := 0x1B
  figsCode   := 0x1F
  unused     := 0x00
  canonL     := canonLetters
  canonF     := canonFigures

/-- `SPACE`, fixed by R5. -/
def space : Byte := 0x20

/-- `BAUD_TABLE`, the fixed (rate, divisor) label pairs of R5 and R43. -/
def baudTable : List (Nat × Nat) :=
  [(45, 1852), (50, 1667), (56, 1488), (75, 1111), (110, 758)]

/-- The values of the block's input ports in one step (R4): what the environment and the host choose. -/
structure StepInput where
  rst       : Bool
  cmdValid  : Bool
  cmd       : Cmd
  lineIn    : Bool
  hostBrkIn : Bool
  forcedIn  : Bool
  modeIn    : Bool
deriving DecidableEq, Repr, Inhabited

/-- The input convention of 95_test_vectors.md section 0: no reset, no command, the line at mark, the rest 0. -/
def StepInput.quiet : StepInput where
  rst       := false
  cmdValid  := false
  cmd       := 0
  lineIn    := true
  hostBrkIn := false
  forcedIn  := false
  modeIn    := false

/-- FREE VALUE (log entry 2, DESIGN CHOICE, safe): the port values of step number `t` when nothing written down
in the state says what they are. R4: the environment and the host choose each step's inputs, and "a model
quantifies over every input sequence and every command sequence". It has no body, so no proof can see a value. -/
opaque Config.freeInput : Nat → StepInput

end Sys2Proof
end

