-- ==== Sys2Proof/Machine/State.lean ====
section
/-! DEFINITION. Every element of 10_state.md as plain data, grouped by the units of R1, with its reset value; beside
them the response ports of R29 and the model's own fields (the parameters, the step's inputs, its events). -/

namespace Sys2Proof.Machine

/-- `rx_state` (R9). -/
inductive RxState where
  | idle | startDetected | samplingBits | stopCheck
deriving DecidableEq, Repr

/-- `tx_state` (R11); the encodings 5 to 7 never occur and are not represented. -/
inductive TxState where
  | idle | sendStart | sendData | sendStop | sendBreak
deriving DecidableEq, Repr

/-- `r_state` (R15, R76). -/
inductive RelayState where
  | off | poweringOn | enabled | poweringOff
deriving DecidableEq, Repr

/-- The receive side of the framer (R9). -/
structure Rx where
  /-- `rx_state`. -/
  state : RxState
  /-- `rx_cnt`: steps left to the next sample point. -/
  cnt   : BitVec 17
  /-- `rx_bit`: number of data bits sampled in this frame. -/
  bit   : BitVec 4
  /-- `rx_shift`: data bits sampled so far, bit i at position i. -/
  shift : Byte
  /-- `rx_n`: data width of the frame in progress. -/
  n     : DataWidth
  /-- `rx_prev`: `line_in` as sampled in the previous step. -/
  prev  : Bool
  /-- `rx_data`: the one-byte receive holding register. -/
  data  : Byte
  /-- `rx_ready`: `rx_data` holds a byte not yet taken. -/
  ready : Bool
deriving DecidableEq, Repr

/-- The line-condition part of the framer (R10). -/
structure LineCond where
  /-- `lowcnt`: consecutive low steps up to this one, saturating. -/
  lowcnt : BitVec 20
  /-- `brk`: break condition. -/
  brk    : Bool
  /-- `fe`: the source's `framing_error` flag. -/
  fe     : Bool
deriving DecidableEq, Repr

/-- The transmit side of the framer (R11). -/
structure Tx where
  /-- `tx_state`. -/
  state   : TxState
  /-- `tx_cnt`: steps left in the current bit, or in the break. -/
  cnt     : BitVec 17
  /-- `tx_bit`: index of the data bit being driven. -/
  bit     : BitVec 3
  /-- `tx_shift`: the byte in flight. -/
  shift   : Byte
  /-- `tx_n`: data width of the frame in flight. -/
  n       : DataWidth
  /-- `line_out`: the level driven on the line. -/
  lineOut : Bool
deriving DecidableEq, Repr

/-- The five sticky status bits (R12); also the shape of the events of one step (`set_now`, R38). -/
structure Sticky where
  feev   : Bool
  fefall : Bool
  ovr    : Bool
  txrej  : Bool
  hbr    : Bool
deriving DecidableEq, Repr

/-- No sticky bit, no event. -/
def Sticky.none : Sticky := ⟨false, false, false, false, false⟩

/-- The Baudot Codec's registers (R13); `sel` = 7 never occurs and is not represented. -/
structure Codec where
  /-- `send_shift`. -/
  sendShift : ShiftState
  /-- `recv_shift`. -/
  recvShift : ShiftState
  /-- `usos`: unshift-on-space. -/
  usos      : Bool
  /-- `sel`: the active table. -/
  sel       : Fin 7
deriving DecidableEq, Repr

/-- The Relay Sequencer (R15). -/
structure Relay where
  /-- `r_state`. -/
  state     : RelayState
  /-- `r_phase`: index of the current blink phase. -/
  phase     : BitVec 4
  /-- `r_cnt`: steps left in the current phase. -/
  cnt       : BitVec 16
  /-- `loop_relay`. -/
  loopRelay : Bool
  /-- `ac_relay`. -/
  acRelay   : Bool
  /-- `led_a`. -/
  ledA      : Bool
  /-- `led_b`. -/
  ledB      : Bool
deriving DecidableEq, Repr

/-- The table RAM (R14, R19) as the bytes that differ from their reset value, by linear address
`64*s + 32*k + i`, addresses rising (Ops.lean says what an unlisted address reads as). -/
abbrev Memory := List Host.Cell

/-- The whole state of the block, and what the model adds to it. -/
structure State where
  /-- MODEL'S OWN: the parameters of R5, which no step writes. -/
  par     : Params
  /-- `div` (R8). -/
  div     : BitVec 16
  /-- `rx_w_cfg` (R8). -/
  rxWCfg  : DataWidth
  /-- `tx_w_cfg` (R8). -/
  txWCfg  : DataWidth
  /-- R9. -/
  rx      : Rx
  /-- R10. -/
  line    : LineCond
  /-- R11. -/
  tx      : Tx
  /-- R12. -/
  sticky  : Sticky
  /-- `hbr_prev`: `host_brk_in` of the previous step (R12). -/
  hbrPrev : Bool
  /-- R13. -/
  codec   : Codec
  /-- R14: the table RAM. -/
  tbl     : Memory
  /-- R15. -/
  relay   : Relay
  /-- `rsp_err` of the last step (R4, R29). -/
  rspErr  : Bool
  /-- `rsp_data` of the last step (R4, R29). -/
  rspData : Rsp
  /-- MODEL'S OWN: the port values of the step in progress (R4); between steps, of the last step. -/
  inp     : StepInput
  /-- MODEL'S OWN: the `set_now` events of the step in progress (R38); between steps, of the last step. -/
  ev      : Sticky
  /-- MODEL'S OWN: the port values written down for the coming steps, the next step's first (R4). -/
  inputs  : List StepInput
  /-- MODEL'S OWN: how many steps have been taken; the argument of `Config.freeInput`. -/
  stepNo  : Nat
deriving DecidableEq, Repr

/-- Why the machine may stop with a fault: NOTHING. R87: "No input sequence and no command sequence stops the
block"; R86: "The block has no trap". Every failing command is answered in its own response (R82), so there is no
constructor and no step raises one. -/
inductive Fault
deriving DecidableEq, Repr

/-- Why a step may have no meaning. -/
inductive Refusal where
  /-- Raised by an arm of `exec` whose instruction has no meaning yet (none). Safe: the run ends. -/
  | notModelled (mnemonic : String)
  /-- Raised by `step`, before anything else, when the state's parameters break a constraint of R5: "each
  constraint must hold or the model refuses the configuration". Safe: the run ends. -/
  | badParameters
deriving DecidableEq, Repr

/-- Section 10 of 10_state.md, for given parameters (R93): `div` is `DIV_DEFAULT`, `line_out` is mark, `hbr_prev` is
1, everything else idle or 0, and every table byte at its reset value (no cell listed). The response is (0, 0). -/
def State.resetWith (p : Params) : State where
  par     := p
  div     := p.divDefault
  rxWCfg  := .five
  txWCfg  := .five
  rx      := { state := .idle, cnt := 0, bit := 0, shift := 0, n := .five, prev := false, data := 0, ready := false }
  line    := { lowcnt := 0, brk := false, fe := false }
  tx      := { state := .idle, cnt := 0, bit := 0, shift := 0, n := .five, lineOut := true }
  sticky  := Sticky.none
  hbrPrev := true
  codec   := { sendShift := .ltrs, recvShift := .ltrs, usos := false, sel := 0 }
  tbl     := []
  relay   := { state := .off, phase := 0, cnt := 0, loopRelay := false, acRelay := false, ledA := false, ledB := false }
  rspErr  := false
  rspData := 0
  inp     := StepInput.quiet
  ev      := Sticky.none
  inputs  := []
  stepNo  := 0

/-- The state at power-up and after reset (R93, R94), with the parameter values of this hardware (R5). -/
def State.reset : State := State.resetWith Params.standard

/-- What one step, or one command, answers. -/
abbrev Result := Host.Outcome State Fault Refusal

end Sys2Proof.Machine
end

