-- ==== Sys2Proof/Machine/Operands.lean ====
section
/-! DEFINITION. What the operands and the encoded state elements mean: data widths, the bit-timing quantities of
R40, shift codes and banks, table selectors, bits of bytes, and the state encodings of 10_state.md. -/

namespace Sys2Proof.Machine

/-- `W(x)`: the number of data bits of a width bit (R40). -/
def dataBits : DataWidth → Nat
  | .five => 5
  | .eight => 8

/-- `H = div div 2` (R40). -/
def halfBit (d : BitVec 16) : Nat := d.toNat / 2

/-- `FIRST = H + div`: steps from the start edge to the sample of data bit 0 (R40). -/
def firstSample (d : BitVec 16) : Nat := halfBit d + d.toNat

/-- `FRAME(n) = (n + 2) * div` (R40). -/
def frameSteps (d : BitVec 16) (w : DataWidth) : Nat := (dataBits w + 2) * d.toNat

/-- One bit time as a 17-bit counter load. -/
def bitTime (d : BitVec 16) : BitVec 17 := d.setWidth 17

/-- `v` with bit `i` replaced by `b`; a position above 7 is none of the byte's (R48). -/
def setBit (v : Byte) (i : Nat) (b : Bool) : Byte :=
  (v &&& ~~~(1#8 <<< i)) ||| (if b then 1#8 <<< i else 0#8)

/-- `zext_8(v[W(n)-1 : 0])` (R49): a 5-bit byte has bits 7:5 = 0. -/
def lowBits (w : DataWidth) (v : Byte) : Byte :=
  match w with
  | .five => (v.setWidth 5).setWidth 8
  | .eight => v

/-- The other shift state (`other(q)` of 42_codec.md). -/
def otherShift : ShiftState → ShiftState
  | .ltrs => .figs
  | .figs => .ltrs

/-- `bank(q)` of 42_codec.md. -/
def bankOf : ShiftState → Bank
  | .ltrs => .letters
  | .figs => .figures

/-- `ShiftCode(q)` (R67). -/
def shiftCode (p : Params) : ShiftState → Code
  | .ltrs => p.ltrsCode
  | .figs => p.figsCode

/-- The bit a shift state is shown as (R13). -/
def shiftBit (q : ShiftState) : Bool := q == .figs

/-- The bit a data width is shown as (R8). -/
def widthBit (w : DataWidth) : Bool := w == .eight

/-- The table a `tsel` operand names (R19, R32): 7 names none. -/
def tableOf (tsel : BitVec 3) : Option (Fin 7) :=
  if h : tsel.toNat < 7 then some ⟨tsel.toNat, h⟩ else none

/-- The selector a SETSEL value loads (R72): values above 6 load 0. -/
def selectorOf (value : Byte) : Fin 7 :=
  if h : value.toNat < 7 then ⟨value.toNat, h⟩ else 0

/-- The divisor a SETDIV value loads (R42): 0 loads `DIV_DEFAULT`. -/
def divisorOf (p : Params) (value : BitVec 16) : BitVec 16 :=
  if value = 0 then p.divDefault else value

/-- The encoding of `rx_state` (R9). -/
def RxState.bits : RxState → BitVec 2
  | .idle => 0
  | .startDetected => 1
  | .samplingBits => 2
  | .stopCheck => 3

/-- The encoding of `tx_state` (R11). -/
def TxState.bits : TxState → BitVec 3
  | .idle => 0
  | .sendStart => 1
  | .sendData => 2
  | .sendStop => 3
  | .sendBreak => 4

/-- The encoding of `r_state` (R15). -/
def RelayState.bits : RelayState → BitVec 2
  | .off => 0
  | .poweringOn => 1
  | .enabled => 2
  | .poweringOff => 3

end Sys2Proof.Machine
end

