-- ==== Sys2Proof/Machine/Ops.lean ====
section
/-! DEFINITION. The shared operations: the table RAM (R14, R19, R20), answering a command and failing one (R29,
R82, R83: the block's only form of exception, which saves nothing and from which nothing returns, R86). -/

namespace Sys2Proof.Machine

/-- The linear address of R19: `64*s + 32*k + i`. -/
def slotAddr (s : Fin 7) (k : Bank) (i : Code) : Nat := 64 * s.val + 32 * k.toNat + i.toNat

/-- How many bytes the table RAM has (R14, R19). -/
def tableBytes : Nat := 448

/-- What an address holds after reset, and so what an unlisted address reads as (R14): `CANON_L` and `CANON_F` in
table 0, `UNUSED` in tables 1 to 6. -/
def resetByte (p : Params) (a : Nat) : Byte :=
  if a < 32 then p.canonL.getD a p.unused
  else if a < 64 then p.canonF.getD (a - 32) p.unused
  else p.unused

/-- The byte at an address. -/
def Memory.read (p : Params) : Memory → Nat → Byte
  | [], a => resetByte p a
  | (b, v) :: m, a => if b = a then v else Memory.read p m a

/-- Put a cell in its place, in front of the first higher address, replacing one of the same address. -/
def Memory.insert (a : Nat) (v : Byte) : Memory → Memory
  | [] => [(a, v)]
  | (b, w) :: m =>
    if a < b then (a, v) :: (b, w) :: m
    else if a = b then (a, v) :: m
    else (b, w) :: Memory.insert a v m

/-- Remove the cell of an address. -/
def Memory.erase (a : Nat) : Memory → Memory
  | [] => []
  | (b, w) :: m => if a = b then m else (b, w) :: Memory.erase a m

/-- Write a byte, keeping the canonical form: a byte equal to the reset contents is not listed. -/
def Memory.write (p : Params) (m : Memory) (a : Nat) (v : Byte) : Memory :=
  if v = resetByte p a then m.erase a else m.insert a v

/-- The canonical form: addresses strictly rising, all of them table bytes, none at its reset value. -/
abbrev Memory.wf (p : Params) (m : Memory) : Prop :=
  m.Pairwise (fun x y => x.1 < y.1) ∧ ∀ c ∈ m, c.1 < tableBytes ∧ c.2 ≠ resetByte p c.1

/-- `TblRead(s, k, i)` (R20). -/
def State.tblRead (s : State) (t : Fin 7) (k : Bank) (i : Code) : Byte :=
  s.tbl.read s.par (slotAddr t k i)

/-- `TblWrite(s, k, i, v)` (R20). -/
def State.tblWrite (s : State) (t : Fin 7) (k : Bank) (i : Code) (v : Byte) : State :=
  { s with tbl := s.tbl.write s.par (slotAddr t k i) v }

/-- The error codes of R82. -/
inductive CmdError where
  | rsvdBits | rsvdSel | txBusy | rxEmpty | relayBusy
deriving DecidableEq, Repr

/-- The code column of R82. -/
def CmdError.code : CmdError → Rsp
  | .rsvdBits => 1
  | .rsvdSel => 2
  | .txBusy => 3
  | .rxEmpty => 4
  | .relayBusy => 5

/-- `respond(v)`: `rsp_err` = 0 and `rsp_data` = v (R29). -/
def State.respond (s : State) (v : Rsp) : State := { s with rspErr := false, rspData := v }

/-- `raise CmdError(c)`: `rsp_err` = 1, the code in `rsp_data[3:0]` and 0 above it; no other state changes
(R29, R82, R83). A meaning raises on the state the command phase began with, so nothing is left to undo. -/
def State.raise (s : State) (e : CmdError) : State := { s with rspErr := true, rspData := e.code }

end Sys2Proof.Machine
end

