-- ==== Sys2Proof/Machine/Flags.lean ====
section
/-! DEFINITION. The sticky status bits and their set and clear rule (R12, R38), and the six readable registers
(R16, R17). -/

namespace Sys2Proof.Machine

/-- The sticky bits by name. -/
inductive StickyBit where
  | feev | fefall | ovr | txrej | hbr
deriving DecidableEq, Repr

/-- `x` with bit `b` set. -/
def Sticky.set (x : Sticky) : StickyBit → Sticky
  | .feev => { x with feev := true }
  | .fefall => { x with fefall := true }
  | .ovr => { x with ovr := true }
  | .txrej => { x with txrej := true }
  | .hbr => { x with hbr := true }

/-- `set_now(b)` (R38): an event of this step sets the sticky bit, and is remembered until the step ends so that
a CLRST of the same step cannot clear it. -/
def State.setNow (s : State) (b : StickyBit) : State :=
  { s with sticky := s.sticky.set b, ev := s.ev.set b }

/-- `set_now(b)` when a condition holds. -/
def State.setNowIf (s : State) (c : Bool) (b : StickyBit) : State := if c then s.setNow b else s

/-- R38 at the end of a step whose CLRST has this mask: bit 0 of the mask is STATUS bit 8 (`feev`) and bit 4 is
STATUS bit 12 (`hbr`). A cleared bit stays 1 when an event of this step set it. -/
def Sticky.clear (x ev : Sticky) (mask : BitVec 5) : Sticky where
  feev   := (x.feev && !mask.getLsbD 0) || ev.feev
  fefall := (x.fefall && !mask.getLsbD 1) || ev.fefall
  ovr    := (x.ovr && !mask.getLsbD 2) || ev.ovr
  txrej  := (x.txrej && !mask.getLsbD 3) || ev.txrej
  hbr    := (x.hbr && !mask.getLsbD 4) || ev.hbr

/-- One bit of a register. -/
def bit1 (b : Bool) : BitVec 1 := BitVec.ofBool b

/-- STATUS, register 0 (R16), from bit 15 down. -/
def State.statusReg (s : State) : Rsp :=
  0#3 ++ bit1 s.sticky.hbr ++ bit1 s.sticky.txrej ++ bit1 s.sticky.ovr ++ bit1 s.sticky.fefall ++
  bit1 s.sticky.feev ++ bit1 s.inp.modeIn ++ bit1 s.inp.forcedIn ++ bit1 s.rx.prev ++
  bit1 (s.tx.state == .sendBreak) ++ bit1 s.line.brk ++ bit1 s.line.fe ++ bit1 (s.tx.state == .idle) ++
  bit1 s.rx.ready

/-- DIV, register 1 (R17). -/
def State.divReg (s : State) : Rsp := s.div

/-- CONFIG, register 2 (R17), from bit 15 down. -/
def State.configReg (s : State) : Rsp :=
  0#7 ++ bit1 (widthBit s.tx.n) ++ bit1 (widthBit s.rx.n) ++ BitVec.ofNat 3 s.codec.sel.val ++ 0#1 ++
  bit1 s.codec.usos ++ bit1 (widthBit s.txWCfg) ++ bit1 (widthBit s.rxWCfg)

/-- SHIFT, register 3 (R17). -/
def State.shiftReg (s : State) : Rsp :=
  0#14 ++ bit1 (shiftBit s.codec.recvShift) ++ bit1 (shiftBit s.codec.sendShift)

/-- RELAY, register 4 (R17), from bit 15 down. -/
def State.relayReg (s : State) : Rsp :=
  0#5 ++ s.relay.phase ++ bit1 s.inp.forcedIn ++ bit1 s.relay.ledB ++ bit1 s.relay.ledA ++
  bit1 s.relay.acRelay ++ bit1 s.relay.loopRelay ++ s.relay.state.bits

/-- ENGINE, register 5 (R17), from bit 15 down. -/
def State.engineReg (s : State) : Rsp :=
  0#4 ++ s.tx.bit ++ s.tx.state.bits ++ s.rx.bit ++ s.rx.state.bits

/-- `Reg(reg)` (R21, R64): registers 6 and 7 are reserved. -/
def State.readReg (s : State) (reg : BitVec 3) : Option Rsp :=
  match reg.toNat with
  | 0 => some s.statusReg
  | 1 => some s.divReg
  | 2 => some s.configReg
  | 3 => some s.shiftReg
  | 4 => some s.relayReg
  | 5 => some s.engineReg
  | _ => none

end Sys2Proof.Machine
end

