-- ==== Sys2Proof/Machine/BitTiming.lean ====
section
/-! DEFINITION. The Bit-Timing Engine's two commands, NOP and SETDIV (R41, R42), and the divisor label functions
(R43, R44). -/

namespace Sys2Proof.Machine

/-- NOP (R41): also every step without a command. -/
def execNop (s : State) : Result := .next (s.respond 0)

/-- The receive counter a SETDIV leaves (R42): a frame in progress has its current bit restarted. -/
def restartRx (d : BitVec 16) (rx : Rx) : Rx :=
  if rx.state = .idle then rx else { rx with cnt := bitTime d }

/-- The transmit counter a SETDIV leaves (R42): restarted in a frame, untouched in `IDLE` and in `SEND_BREAK`. -/
def restartTx (d : BitVec 16) (tx : Tx) : Tx :=
  match tx.state with
  | .sendStart | .sendData | .sendStop => { tx with cnt := bitTime d }
  | .idle | .sendBreak => tx

/-- SETDIV (R42). -/
def execSetdiv (value : BitVec 16) (s : State) : Result :=
  let d := divisorOf s.par value
  .next ({ s with div := d, rx := restartRx d s.rx, tx := restartTx d s.tx }.respond d)

/-- `clamp(1, 65535, v)` (R43). -/
def clampDivisor (v : Nat) : Nat := max 1 (min 65535 v)

/-- `baud_to_divisor(r)` (R43); it is not defined for rate 0. -/
def baudToDivisor (p : Params) (r : Nat) : Option Nat :=
  if r = 0 then none
  else match baudTable.find? (fun x => x.1 == r) with
    | some x => some x.2
    | none => some (clampDivisor ((p.fStep + r / 2) / r))

/-- `divisor_to_baud(d)` (R44); it is not defined for divisor 0. -/
def divisorToBaud (p : Params) (d : Nat) : Option Nat :=
  if d = 0 then none
  else match baudTable.find? (fun x => x.2 == d) with
    | some x => some x.1
    | none => some ((p.fStep + d / 2) / d)

end Sys2Proof.Machine
end

