-- ==== Sys2Proof/Machine/Codec.lean ====
section
/-! DEFINITION. The Baudot Codec: the search of R66 and the commands ENC, DEC, SETSH, SETUSOS, SETSEL, TBLWR and
TBLRD (R68 to R74). -/

namespace Sys2Proof.Machine

/-- The 32 indices of a bank, least first. -/
def slots : List Code := (List.range 32).map (BitVec.ofNat 5)

/-- A slot the search of R66 may answer: not a control slot, and holding the character, which is not `UNUSED`. -/
def State.holds (s : State) (t : Fin 7) (k : Bank) (c : Byte) (i : Code) : Bool :=
  i != s.par.ltrsCode && i != s.par.figsCode && c != s.par.unused && s.tblRead t k i == c

/-- `Find(s, k, c)` (R66): the least such index. -/
def State.find (s : State) (t : Fin 7) (k : Bank) (c : Byte) : Option Code :=
  slots.find? (s.holds t k c)

/-- The response layout of ENC (R68): SSHIFT, DROP, SHIFT, CVALID, CODE. -/
def encResponse (q : ShiftState) (drop shift cvalid : Bool) (code : Code) : Rsp :=
  0#7 ++ bit1 (shiftBit q) ++ bit1 drop ++ bit1 shift ++ bit1 cvalid ++ code

/-- The send shift state after a data code of ENC (R68): unshift-on-space. -/
def State.sendAfter (s : State) (c : Byte) : ShiftState :=
  if s.codec.usos && c == space && s.codec.sendShift == .figs then .ltrs else s.codec.sendShift

/-- ENC (R68). -/
def execEnc (ascii : Byte) (s : State) : Result :=
  let q := s.codec.sendShift
  match s.find s.codec.sel (bankOf q) ascii with
  | some i =>
    let q' := s.sendAfter ascii
    .next ({ s with codec := { s.codec with sendShift := q' } }.respond (encResponse q' false false true i))
  | none =>
    match s.find s.codec.sel (bankOf (otherShift q)) ascii with
    | some _ =>
      .next ({ s with codec := { s.codec with sendShift := otherShift q } }.respond
        (encResponse (otherShift q) false true true (shiftCode s.par (otherShift q))))
    | none => .next (s.respond (encResponse q true false false 0))

/-- The response layout of DEC (R69): UNUSEDHIT, RSHIFT, CTRL, VALID, CHAR. -/
def decResponse (unusedHit : Bool) (q : ShiftState) (ctrl valid : Bool) (c : Byte) : Rsp :=
  0#4 ++ bit1 unusedHit ++ bit1 (shiftBit q) ++ bit1 ctrl ++ bit1 valid ++ c

/-- The receive shift state after a character of DEC (R69): unshift-on-space. -/
def State.recvAfter (s : State) (c : Byte) : ShiftState :=
  if s.codec.usos && c == space && s.codec.recvShift == .figs then .ltrs else s.codec.recvShift

/-- DEC (R69). -/
def execDec (code : Code) (s : State) : Result :=
  if code = s.par.ltrsCode then
    .next ({ s with codec := { s.codec with recvShift := .ltrs } }.respond (decResponse false .ltrs true false 0))
  else if code = s.par.figsCode then
    .next ({ s with codec := { s.codec with recvShift := .figs } }.respond (decResponse false .figs true false 0))
  else
    let c := s.tblRead s.codec.sel (bankOf s.codec.recvShift) code
    if c = s.par.unused then .next (s.respond (decResponse true s.codec.recvShift false false 0))
    else
      let q' := s.recvAfter c
      .next ({ s with codec := { s.codec with recvShift := q' } }.respond (decResponse false q' false true c))

/-- The response layout of SETSH (R70): RSHIFT at bit 10, SSHIFT at bit 8, SHIFT and CVALID for the send
direction, CODE. -/
def setshResponse (recv send : ShiftState) (sending : Bool) (code : Code) : Rsp :=
  0#5 ++ bit1 (shiftBit recv) ++ 0#1 ++ bit1 (shiftBit send) ++ 0#1 ++ bit1 sending ++ bit1 sending ++ code

/-- The codec registers after SETSH (R70). -/
def setShift (dir : Dir) (state : ShiftState) (c : Codec) : Codec :=
  match dir with
  | .send => { c with sendShift := state }
  | .receive => { c with recvShift := state }

/-- SETSH (R70). -/
def execSetsh (dir : Dir) (state : ShiftState) (s : State) : Result :=
  let c := setShift dir state s.codec
  .next ({ s with codec := c }.respond
    (setshResponse c.recvShift c.sendShift (dir == Dir.send) (shiftCode s.par state)))

/-- SETUSOS (R71). -/
def execSetusos (u : Bool) (s : State) : Result :=
  .next ({ s with codec := { s.codec with usos := u } }.respond ((bit1 u).setWidth 16))

/-- SETSEL (R72). -/
def execSetsel (value : Byte) (s : State) : Result :=
  .next ({ s with codec := { s.codec with sel := selectorOf value } }.respond
    (BitVec.ofNat 16 (selectorOf value).val))

/-- TBLWR (R73). -/
def execTblwr (tsel : BitVec 3) (bank : Bank) (idx : Code) (byte : Byte) (s : State) : Result :=
  match tableOf tsel with
  | some t => .next ((s.tblWrite t bank idx byte).respond (byte.setWidth 16))
  | none => .next (s.raise .rsvdSel)

/-- TBLRD (R74). -/
def execTblrd (tsel : BitVec 3) (bank : Bank) (idx : Code) (s : State) : Result :=
  match tableOf tsel with
  | some t => .next (s.respond ((s.tblRead t bank idx).setWidth 16))
  | none => .next (s.raise .rsvdSel)

end Sys2Proof.Machine
end

