-- ==== Sys2Proof/Machine/Framer.lean ====
section
/-! DEFINITION. The Soft-UART Framer: its engine-phase units 1 to 5 (R46 to R59) and its commands TXPUT, RXGET,
SENDBRK, SETWID, RDREG and CLRST (R60 to R65). -/

namespace Sys2Proof.Machine

/-- What a step of the receive machine reports: the two outcomes of STOP_CHECK that are not held states (R9). -/
inductive RxOutcome where
  | quiet | byteReady | framingError
deriving DecidableEq, Repr

/-- The start-edge rule in `IDLE` (R46, R47). -/
def rxIdle (d : BitVec 16) (cfg : DataWidth) (lineIn : Bool) (rx : Rx) : Rx :=
  if rx.prev && !lineIn then
    { rx with n := cfg, state := .startDetected, cnt := BitVec.ofNat 17 (firstSample d), bit := 0, shift := 0 }
  else { rx with n := cfg }

/-- A data sample point (R48): data bit `rx_bit` is taken from the line. -/
def rxSample (d : BitVec 16) (lineIn : Bool) (rx : Rx) : Rx :=
  { rx with
    shift := setBit rx.shift rx.bit.toNat lineIn
    bit := rx.bit + 1
    cnt := bitTime d
    state := if rx.bit.toNat + 1 = dataBits rx.n then .stopCheck else .samplingBits }

/-- The stop-bit sample point (R49). -/
def rxStop (lineIn : Bool) (rx : Rx) : Rx :=
  if lineIn then { rx with cnt := 0, state := .idle, data := lowBits rx.n rx.shift, ready := true }
  else { rx with cnt := 0, state := .idle }

/-- One step of the receive state machine (R46 to R49). -/
def rxTick (d : BitVec 16) (cfg : DataWidth) (lineIn : Bool) (rx : Rx) : Rx :=
  match rx.state with
  | .idle => rxIdle d cfg lineIn rx
  | .startDetected | .samplingBits =>
    if rx.cnt - 1 = 0 then rxSample d lineIn rx else { rx with cnt := rx.cnt - 1 }
  | .stopCheck => if rx.cnt - 1 = 0 then rxStop lineIn rx else { rx with cnt := rx.cnt - 1 }

/-- What that step reports (R49). -/
def rxOutcome (lineIn : Bool) (rx : Rx) : RxOutcome :=
  if rx.state = .stopCheck ∧ rx.cnt - 1 = 0 then (if lineIn then .byteReady else .framingError) else .quiet

/-- Unit 1 of R37: the receive state machine, with `ovr`, `fe` and `feev` set as R49 says. -/
def engineRx (s : State) : State :=
  let s' := { s with rx := rxTick s.div s.rxWCfg s.inp.lineIn s.rx }
  match rxOutcome s.inp.lineIn s.rx with
  | .quiet => s'
  | .byteReady => s'.setNowIf s.rx.ready .ovr
  | .framingError => { s' with line := { s.line with fe := true } }.setNow .feev

/-- The low-line counter's next value (R51), saturating at its maximum. -/
def lowStep (n : BitVec 20) : BitVec 20 := if n = BitVec.allOnes 20 then n else n + 1

/-- One step of the line-condition logic (R51, R52); `frame` is `FRAME(W(rx_n))`. -/
def lineTick (frame : Nat) (lineIn : Bool) (l : LineCond) : LineCond :=
  if lineIn then { lowcnt := 0, brk := false, fe := false }
  else if frame < (lowStep l.lowcnt).toNat then { lowcnt := lowStep l.lowcnt, brk := true, fe := true }
  else { l with lowcnt := lowStep l.lowcnt }

/-- Unit 2 of R37: every 1-to-0 change of `fe` sets `fefall` (R52). -/
def engineLine (s : State) : State :=
  { s with line := lineTick (frameSteps s.div s.rx.n) s.inp.lineIn s.line }.setNowIf
    (s.inp.lineIn && s.line.fe) .fefall

/-- Unit 3 of R37: the line history (R53). -/
def engineHistory (s : State) : State := { s with rx := { s.rx with prev := s.inp.lineIn } }

/-- Unit 4 of R37: the host-break edge detector (R54). -/
def engineHostBreak (s : State) : State :=
  { s with hbrPrev := s.inp.hostBrkIn }.setNowIf (!s.hbrPrev && s.inp.hostBrkIn) .hbr

/-- The end of the start bit (R56): data bit 0 is driven. -/
def txFirstBit (d : BitVec 16) (tx : Tx) : Tx :=
  { tx with state := .sendData, bit := 0, lineOut := tx.shift.getLsbD 0, cnt := bitTime d }

/-- The end of a data bit (R57): the next data bit, or the stop bit. -/
def txNextBit (d : BitVec 16) (tx : Tx) : Tx :=
  if tx.bit.toNat + 1 < dataBits tx.n then
    { tx with bit := tx.bit + 1, lineOut := tx.shift.getLsbD (tx.bit.toNat + 1), cnt := bitTime d }
  else { tx with state := .sendStop, lineOut := true, cnt := bitTime d }

/-- One step of the transmit state machine (R55 to R59). -/
def txTick (d : BitVec 16) (tx : Tx) : Tx :=
  match tx.state with
  | .idle => tx
  | .sendStart => if tx.cnt - 1 = 0 then txFirstBit d tx else { tx with cnt := tx.cnt - 1 }
  | .sendData => if tx.cnt - 1 = 0 then txNextBit d tx else { tx with cnt := tx.cnt - 1 }
  | .sendStop =>
    if tx.cnt - 1 = 0 then { tx with cnt := 0, state := .idle, bit := 0 } else { tx with cnt := tx.cnt - 1 }
  | .sendBreak =>
    if tx.cnt - 1 = 0 then { tx with cnt := 0, state := .idle, lineOut := true } else { tx with cnt := tx.cnt - 1 }

/-- Unit 5 of R37: the transmit state machine. -/
def engineTx (s : State) : State := { s with tx := txTick s.div s.tx }

/-- TXPUT (R60): accepted in `IDLE`, where the start bit begins in this step; otherwise refused with `TX_BUSY`,
and `txrej` stays set although the command failed (R83). -/
def execTxput (byte : Byte) (s : State) : Result :=
  if s.tx.state = .idle then
    .next ({ s with tx := { state := .sendStart, cnt := bitTime s.div, bit := 0, shift := byte, n := s.txWCfg,
                            lineOut := false } }.respond 0)
  else .next ((s.setNow .txrej).raise .txBusy)

/-- RXGET (R61). -/
def execRxget (s : State) : Result :=
  if s.rx.ready then .next ({ s with rx := { s.rx with ready := false } }.respond (s.rx.data.setWidth 16))
  else .next (s.raise .rxEmpty)

/-- RDREG (R64). -/
def execRdreg (reg : BitVec 3) (s : State) : Result :=
  match s.readReg reg with
  | some v => .next (s.respond v)
  | none => .next (s.raise .rsvdSel)

/-- CLRST (R65, R38): answers STATUS as it is after the clear. -/
def execClrst (mask : BitVec 5) (s : State) : Result :=
  let s' := { s with sticky := s.sticky.clear s.ev mask }
  .next (s'.respond s'.statusReg)

/-- SETWID (R63): the widths take effect between frames (R46, R60). -/
def execSetwid (rx8 tx8 : DataWidth) (s : State) : Result :=
  .next ({ s with rxWCfg := rx8, txWCfg := tx8 }.respond (0#14 ++ bit1 (widthBit tx8) ++ bit1 (widthBit rx8)))

/-- SENDBRK (R62): a frame in flight is abandoned; a break in progress is not restarted. -/
def execSendbrk (s : State) : Result :=
  if s.tx.state = .sendBreak then .next (s.raise .txBusy)
  else .next ({ s with tx := { s.tx with state := .sendBreak, cnt := s.par.breakTicks, bit := 0,
                                         lineOut := false } }.respond 0)

end Sys2Proof.Machine
end

