-- ==== Sys2Proof/Machine/RelaySequencer.lean ====
section
/-! DEFINITION. The Relay Sequencer: its engine-phase unit (R77, R78) and its command RELAY (R79). -/

namespace Sys2Proof.Machine

/-- Both LEDs at one level: lit in even phases (R76). -/
def ledsOf (phase : Nat) : Bool := phase % 2 == 0

/-- The next blink phase of a sequence (R77, R78). -/
def nextPhase (p : Params) (r : Relay) : Relay :=
  { r with
    phase := r.phase + 1
    cnt := p.phaseTicks
    ledA := ledsOf (r.phase.toNat + 1)
    ledB := ledsOf (r.phase.toNat + 1) }

/-- One step of the sequencer (R77, R78): the AC relay is asserted at the end of a power-on, the loop relay
de-asserted at the end of a power-off. -/
def relayTick (p : Params) (r : Relay) : Relay :=
  match r.state with
  | .off | .enabled => r
  | .poweringOn =>
    if r.cnt - 1 = 0 then
      if r.phase.toNat + 1 < 2 * p.onIters then nextPhase p r
      else { r with cnt := 0, acRelay := true, state := .enabled, phase := 0, ledA := false, ledB := false }
    else { r with cnt := r.cnt - 1 }
  | .poweringOff =>
    if r.cnt - 1 = 0 then
      if r.phase.toNat + 1 < 2 * p.offIters then nextPhase p r
      else { r with cnt := 0, loopRelay := false, state := .off, phase := 0, ledA := false, ledB := false }
    else { r with cnt := r.cnt - 1 }

/-- Unit 6 of R37: the relay sequencer. -/
def engineRelay (s : State) : State := { s with relay := relayTick s.par s.relay }

/-- The sequencer right after an accepted RELAY (R79); where the target state already holds, nothing changes. -/
def relayStart (p : Params) (on : Bool) (r : Relay) : Relay :=
  match on, r.state with
  | true, .off =>
    { r with loopRelay := true, state := .poweringOn, phase := 0, cnt := p.phaseTicks, ledA := true, ledB := true }
  | false, .enabled =>
    { r with acRelay := false, state := .poweringOff, phase := 0, cnt := p.phaseTicks, ledA := true, ledB := true }
  | _, _ => r

/-- RELAY (R79): refused while a sequence runs, whatever `on` is. -/
def execRelay (on : Bool) (s : State) : Result :=
  if s.relay.state = .poweringOn ∨ s.relay.state = .poweringOff then .next (s.raise .relayBusy)
  else
    let s' := { s with relay := relayStart s.par on s.relay }
    .next (s'.respond s'.relayReg)

end Sys2Proof.Machine
end

