-- ==== Sys2Proof/Machine/Dispatch.lean ====
section
/-! DEFINITION. The command phase of one command, on the state the engine phase of its step left (S1, R36): one
arm per constructor of Instr. -/

namespace Sys2Proof.Machine

/-- `CommandPhase` (R36) for a decoded command. -/
def exec (i : Instr) (s : State) : Host.Outcome State Fault Refusal :=
  match i with
  | .nop => Sys2Proof.Machine.execNop s
  | .txput byte => Sys2Proof.Machine.execTxput byte s
  | .rxget => Sys2Proof.Machine.execRxget s
  | .rdreg reg => Sys2Proof.Machine.execRdreg reg s
  | .clrst mask => Sys2Proof.Machine.execClrst mask s
  | .setdiv value => Sys2Proof.Machine.execSetdiv value s
  | .setwid rx8 tx8 => Sys2Proof.Machine.execSetwid rx8 tx8 s
  | .sendbrk => Sys2Proof.Machine.execSendbrk s
  | .enc ascii => Sys2Proof.Machine.execEnc ascii s
  | .dec code => Sys2Proof.Machine.execDec code s
  | .setsh dir state => Sys2Proof.Machine.execSetsh dir state s
  | .setusos u => Sys2Proof.Machine.execSetusos u s
  | .setsel value => Sys2Proof.Machine.execSetsel value s
  | .tblwr tsel bank idx byte => Sys2Proof.Machine.execTblwr tsel bank idx byte s
  | .tblrd tsel bank idx => Sys2Proof.Machine.execTblrd tsel bank idx s
  | .relay on => Sys2Proof.Machine.execRelay on s

end Sys2Proof.Machine
end

