-- ==== Sys2Proof/Machine/Engine.lean ====
section
/-! DEFINITION. The engine phase: the six units in the order of R37. -/

namespace Sys2Proof.Machine

/-- `EnginePhase` (R36, R37): receive machine, line condition, line history, host break, transmit machine, relay
sequencer, each reading what the units before it left, all of them the `line_in` and `host_brk_in` of this step. -/
def enginePhase (s : State) : State :=
  engineRelay (engineTx (engineHostBreak (engineHistory (engineLine (engineRx s)))))

end Sys2Proof.Machine
end

