-- ==== Sys2Proof/WellFormed.lean ====
section
/-! DEFINITION. The checks: which configurations R5 admits, and which assembler lines R34 and R35 accept. A term of
`Instr` needs no check of its own: its operands have exactly the widths of R30 (every value of every field is a
command the block answers). -/

namespace Sys2Proof

/-- The constraint column of R5: "each constraint must hold or the model refuses the configuration". The upper
bounds 65535, 131071, 31 and 255 are the widths of the fields of `Params`. -/
def Params.wf (p : Params) : Bool :=
  decide (1 ≤ p.fStep) &&
  decide (p.divDefault ≠ 0) &&
  decide (p.breakTicks ≠ 0) &&
  decide (p.phaseTicks ≠ 0) &&
  (decide (1 ≤ p.onIters) && decide (p.onIters ≤ 8)) &&
  (decide (1 ≤ p.offIters) && decide (p.offIters ≤ 8)) &&
  decide (p.ltrsCode ≠ p.figsCode) &&
  decide (p.canonL.length = 32) &&
  decide (p.canonF.length = 32)

/-- A width an assembler accepts (R34): 5 or 8. -/
def isWidth (w : Nat) : Bool := decide (w = 5) || decide (w = 8)

/-- A CLRST mask number that fits its field (R30, R34): only bits 12:8 of the command word. -/
def isClrMask (m : Nat) : Bool := decide (m % 256 = 0) && decide (m < 8192)

/-- R34: "An assembler refuses an operand that does not fit its field". R35: WAIT needs n ≥ 1 (log entry 8). SETBAUD needs
a rate that `baud_to_divisor` is defined for (R43: r ≥ 1; log entry 7). DESIGN CHOICE, safe (log entry 13): the mask
and the value of POLL are fields of no command word and R35 gives them no range; the model accepts the 16-bit ones,
the width of the response they are compared with. -/
def AsmLine.wf : AsmLine → Bool
  | .txput b => decide (b < 256)
  | .rdreg r => decide (r < 8)
  | .clrst m => isClrMask m
  | .setdiv v => decide (v < 65536)
  | .setwid r t => isWidth r && isWidth t
  | .enc b => decide (b < 256)
  | .dec c => decide (c < 32)
  | .setusos u => decide (u < 2)
  | .setsel v => decide (v < 256)
  | .tblwr t _ i b => decide (t < 8) && decide (i < 32) && decide (b < 256)
  | .tblrd t _ i => decide (t < 8) && decide (i < 32)
  | .wait n => decide (1 ≤ n)
  | .setbaud r => decide (1 ≤ r)
  | .poll r m v => decide (r < 8) && decide (m < 65536) && decide (v < 65536)
  | .nop | .rxget | .sendbrk | .setsh _ _ | .relay _ | .idle | .clrall | .mode5 | .mode8
  | .shiftl | .shiftf | .poweron | .poweroff => true

end Sys2Proof
end

