-- ==== Sys2Proof/Machine/Cycle.lean ====
section
/-! DEFINITION. The parts of one step around the engine and command phases (R36): taking the step's inputs, the
reset step, running the presented command word, the output ports, and presenting a command to the next step. -/

namespace Sys2Proof.Machine

/-- The port values the next step reads (R4): the first written down, or a free value when none is. -/
def State.nextInput (s : State) : StepInput :=
  match s.inputs with
  | i :: _ => i
  | [] => Config.freeInput s.stepNo

/-- The state as a step begins: its port values latched, and no event yet (R38). -/
def State.takeInput (s : State) : State :=
  { s with inp := s.nextInput, ev := Sticky.none, inputs := s.inputs.tail, stepNo := s.stepNo + 1 }

/-- A step with `rst` = 1 (R36, R93): the reset state and the response (0, 0); neither phase runs. The parameters
and what belongs to the environment are no part of the block's state and stay. -/
def State.resetStep (s : State) : State :=
  { State.resetWith s.par with inp := s.inp, inputs := s.inputs, stepNo := s.stepNo }

/-- The command phase (R36): NOP when no command is presented, whatever `cmd` holds (R28, R41); a word with a
reserved bit set fails with `RSVD_BITS` before anything else (R31, R84). -/
def commandPhase (s : State) : Result :=
  if s.inp.cmdValid then
    match decode s.inp.cmd with
    | .ok i => exec i s
    | .error .reservedBits => .next (s.raise .rsvdBits)
  else exec .nop s

/-- Step t of R36, for parameters the model accepts. -/
def runStep (s : State) : Result :=
  if s.takeInput.inp.rst then .next s.takeInput.resetStep else commandPhase (enginePhase s.takeInput)

/-- The output ports of R4. -/
structure Outputs where
  rspErr    : Bool
  rspData   : Rsp
  lineOut   : Bool
  loopRelay : Bool
  acRelay   : Bool
  ledA      : Bool
  ledB      : Bool
deriving DecidableEq, Repr

/-- The outputs of the step that left this state (R36: "taken from S2"). -/
def State.outputs (s : State) : Outputs where
  rspErr    := s.rspErr
  rspData   := s.rspData
  lineOut   := s.tx.lineOut
  loopRelay := s.relay.loopRelay
  acRelay   := s.relay.acRelay
  ledA      := s.relay.ledA
  ledB      := s.relay.ledB

/-- The inputs of a step with this command word presented and `rst` = 0, the other ports as they were. -/
def presentOn (i : StepInput) (w : Cmd) : StepInput := { i with rst := false, cmdValid := true, cmd := w }

/-- The state whose next step is presented the command word `w`: in the first inputs written down, or on a quiet
line when none are. -/
def State.present (s : State) (w : Cmd) : State :=
  match s.inputs with
  | i :: rest => { s with inputs := presentOn i w :: rest }
  | [] => { s with inputs := [presentOn StepInput.quiet w] }

end Sys2Proof.Machine
end

