-- ==== Sys2Proof/Machine/Step.lean ====
section
/-! DEFINITION. One step of the block (R2, R36), and where the host places the next command. -/

namespace Sys2Proof.Machine

/-- One step (R2, R36). "each constraint must hold or the model refuses the configuration" (R5). -/
def step (s : State) : Host.Outcome State Fault Refusal :=
  if s.par.wf then runStep s else .refused .badParameters

/-- `s` with the command word of bits `w` presented to its very next step (R4, R28: the host presents one command a
step; a command is one 24-bit word, so `nbits` adds nothing). -/
def State.withFetchWord (s : State) (_nbits w : Nat) : State := s.present (BitVec.ofNat 24 w)

end Sys2Proof.Machine
end

