-- ==== Sys2Proof/Machine/Assembler.lean ====
section
/-! DEFINITION. The assembler of R34 and R35: what one accepted line is to the block. -/

namespace Sys2Proof.Machine

/-- What the host does in one or more steps: present a command, leave a step without one (`IDLE`), or poll a
register until a masked value is read (host control flow, R35). -/
inductive HostAction where
  | command (i : Instr)
  | idle
  | poll (reg : BitVec 3) (mask value : Rsp)
deriving DecidableEq, Repr

/-- A width operand, 5 or 8 (R34). -/
def widthOf (w : Nat) : DataWidth := if w = 8 then .eight else .five

/-- The expansion of an accepted line (R34, R35). -/
def expand (p : Params) : AsmLine → List HostAction
  | .nop => [.command .nop]
  | .txput b => [.command (.txput (BitVec.ofNat 8 b))]
  | .rxget => [.command .rxget]
  | .rdreg r => [.command (.rdreg (BitVec.ofNat 3 r))]
  | .clrst m => [.command (.clrst (BitVec.ofNat 5 (m / 256)))]
  | .setdiv v => [.command (.setdiv (BitVec.ofNat 16 v))]
  | .setwid r t => [.command (.setwid (widthOf r) (widthOf t))]
  | .sendbrk => [.command .sendbrk]
  | .enc b => [.command (.enc (BitVec.ofNat 8 b))]
  | .dec c => [.command (.dec (BitVec.ofNat 5 c))]
  | .setsh d q => [.command (.setsh d q)]
  | .setusos u => [.command (.setusos (u == 1))]
  | .setsel v => [.command (.setsel (BitVec.ofNat 8 v))]
  | .tblwr t k i b => [.command (.tblwr (BitVec.ofNat 3 t) k (BitVec.ofNat 5 i) (BitVec.ofNat 8 b))]
  | .tblrd t k i => [.command (.tblrd (BitVec.ofNat 3 t) k (BitVec.ofNat 5 i))]
  | .relay on => [.command (.relay on)]
  | .idle => [.idle]
  | .wait n => List.replicate n .idle
  | .clrall => [.command (.clrst 0x1F)]
  | .setbaud r => [.command (.setdiv (BitVec.ofNat 16 ((baudToDivisor p r).getD 0)))]
  | .mode5 => [.command (.setwid .five .five)]
  | .mode8 => [.command (.setwid .eight .eight)]
  | .shiftl => [.command (.setsh .send .ltrs)]
  | .shiftf => [.command (.setsh .send .figs)]
  | .poweron => [.command (.relay true)]
  | .poweroff => [.command (.relay false)]
  | .poll r m v => [.poll (BitVec.ofNat 3 r) (BitVec.ofNat 16 m) (BitVec.ofNat 16 v)]

/-- "An assembler refuses an operand that does not fit its field" (R34). -/
def assemble (p : Params) (l : AsmLine) : Option (List HostAction) :=
  if l.wf then some (expand p l) else none

/-- The command an action presents in each of its steps: none in a step of `IDLE`, RDREG in every step of a POLL (R35:
"the block sees only the RDREG words"). -/
def HostAction.presents : HostAction → Option Instr
  | .command i => some i
  | .idle => none
  | .poll reg _ _ => some (.rdreg reg)

/-- When the loop of POLL ends (R35): the response has `(rsp_data AND mask) = value`. -/
def pollDone (mask value : Rsp) (s : State) : Bool := s.rspData &&& mask == value

end Sys2Proof.Machine
end

