-- ==== Sys2Proof/Safety.lean ====
section
/-! DEFINITION. The terms the claims are stated in: the legal values of 10_state.md and the output table of R76 as
invariants, one per unit, each decidable; runs of steps; the word of an assembler line. -/

namespace Sys2Proof.Machine

/-- The legal values of R9: `rx_cnt` is 0 only in `IDLE` and at most 98302, and `rx_bit` counts toward the width of
the frame in progress. -/
abbrev Rx.legal (rx : Rx) : Prop :=
  (rx.cnt = 0 ↔ rx.state = .idle) ∧ rx.cnt.toNat ≤ 98302 ∧ rx.bit.toNat ≤ 8 ∧
  (rx.state = .startDetected → rx.bit = 0) ∧
  (rx.state = .samplingBits → 1 ≤ rx.bit.toNat ∧ rx.bit.toNat < dataBits rx.n) ∧
  (rx.state = .stopCheck → rx.bit.toNat = dataBits rx.n)

/-- The line condition against the line history (R51, R52): a break is a framing error, and neither of them nor a
low count outlives a high sample. -/
abbrev LineCond.legal (l : LineCond) (prev : Bool) : Prop :=
  (l.brk = true → l.fe = true ∧ l.lowcnt ≠ 0) ∧ (prev = true → l.lowcnt = 0 ∧ l.fe = false)

/-- The transmit machine and the level it drives (R11, R55 to R60, R62): mark in `IDLE` and in the stop bit, space in
the start bit and in a break, the addressed bit of the byte in flight in a data bit. -/
abbrev Tx.legal (tx : Tx) : Prop :=
  (tx.cnt = 0 ↔ tx.state = .idle) ∧
  (tx.state = .idle → tx.bit = 0 ∧ tx.lineOut = true) ∧
  (tx.state = .sendStart → tx.bit = 0 ∧ tx.lineOut = false) ∧
  (tx.state = .sendData → tx.bit.toNat < dataBits tx.n ∧ tx.lineOut = tx.shift.getLsbD tx.bit.toNat) ∧
  (tx.state = .sendStop → tx.bit.toNat + 1 = dataBits tx.n ∧ tx.lineOut = true) ∧
  (tx.state = .sendBreak → tx.bit = 0 ∧ tx.lineOut = false)

/-- A running blink phase (R76 to R78): both LEDs lit in even phases, some steps of the phase left. -/
abbrev Relay.blinking (p : Params) (r : Relay) (iters : Nat) : Prop :=
  r.loopRelay = true ∧ r.acRelay = false ∧ r.phase.toNat < 2 * iters ∧
  r.ledA = ledsOf r.phase.toNat ∧ r.ledB = ledsOf r.phase.toNat ∧ r.cnt ≠ 0 ∧ r.cnt ≤ p.phaseTicks

/-- A resting sequencer (R76): no phase, no count, the LEDs off. -/
abbrev Relay.resting (r : Relay) : Prop :=
  r.phase = 0 ∧ r.cnt = 0 ∧ r.ledA = false ∧ r.ledB = false

/-- The output table of R76, state by state. -/
abbrev Relay.legal (p : Params) (r : Relay) : Prop :=
  (r.state = .off → r.resting ∧ r.loopRelay = false ∧ r.acRelay = false) ∧
  (r.state = .enabled → r.resting ∧ r.loopRelay = true ∧ r.acRelay = true) ∧
  (r.state = .poweringOn → r.blinking p p.onIters) ∧
  (r.state = .poweringOff → r.blinking p p.offIters)

/-- A legal state of the block: `div` is never 0 (R8) and every unit is legal. -/
abbrev State.legal (s : State) : Prop :=
  s.div ≠ 0 ∧ s.rx.legal ∧ s.line.legal s.rx.prev ∧ s.tx.legal ∧ s.relay.legal s.par ∧ s.tbl.wf s.par

/-- `k` steps from `s`, all of them answering a next state. -/
def runsTo (k : Nat) (s t : State) : Prop := Host.Core.run Sys2Proof.core k s = .next t

/-- This step is not a reset step, and it presents no word with one of these opcodes (R28, R93). -/
abbrev quietFor (ops : List (BitVec 4)) (i : StepInput) : Prop :=
  i.rst = false ∧ (i.cmdValid = true → opcodeOf i.cmd ∉ ops)

/-- The first `k` inputs are written down, and each of them is quiet for these opcodes. -/
abbrev State.quietRun (s : State) (ops : List (BitVec 4)) (k : Nat) : Prop :=
  k ≤ s.inputs.length ∧ ∀ i ∈ s.inputs.take k, quietFor ops i

/-- The next step performs this command (R36): no reset, a command presented, its word decoding to it. -/
abbrev State.performs (s : State) (c : Instr) : Prop :=
  s.nextInput.rst = false ∧ s.nextInput.cmdValid = true ∧ decode s.nextInput.cmd = .ok c

/-- Every word of this opcode whose reserved positions are 0 decodes to the command of its fields, and every other
one is refused for its reserved bits: the encoding and the `RSVD_BITS` line of a command's rule (R30, R31). -/
def readsAs (op : BitVec 4) (reservedOk : Cmd → Prop) (c : Cmd → Instr) : Prop :=
  ∀ w, opcodeOf w = op →
    (reservedOk w → decode w = .ok (c w)) ∧ (¬reservedOk w → decode w = .error .reservedBits)

/-- The assembler accepts this line as one command, and the command's word is this number (R34, R35). -/
def assemblesTo (p : Params) (l : AsmLine) (n : Nat) : Prop :=
  ∃ c, assemble p l = some [.command c] ∧ encode c = BitVec.ofNat 24 n

/-- The line level of a frame, `j` steps after its first step (R22, R56 to R58): the start bit, `W(w)` data bits least
significant first, the stop bit, then mark. -/
def frameLevel (d : BitVec 16) (w : DataWidth) (v : Byte) (stop : Bool) (j : Nat) : Bool :=
  if j / d.toNat = 0 then false
  else if j / d.toNat ≤ dataBits w then v.getLsbD (j / d.toNat - 1)
  else if j / d.toNat = dataBits w + 1 then stop
  else true

/-- How many steps after the start edge the stop bit is sampled (R49): `FIRST + W * div`. -/
def stopSample (d : BitVec 16) (w : DataWidth) : Nat := firstSample d + dataBits w * d.toNat

/-- A sticky bit by name (R12). -/
def Sticky.get (x : Sticky) : StickyBit → Bool
  | .feev => x.feev
  | .fefall => x.fefall
  | .ovr => x.ovr
  | .txrej => x.txrej
  | .hbr => x.hbr

/-- The position of a sticky bit in the mask of CLRST; its STATUS bit is 8 above (R12, R65). -/
def StickyBit.index : StickyBit → Nat
  | .feev => 0
  | .fefall => 1
  | .ovr => 2
  | .txrej => 3
  | .hbr => 4

/-- The mask of the CLRST a word is, 0 for every other word (R38: `clr(b)`). -/
def clearMask (i : StepInput) : BitVec 5 :=
  if i.cmdValid then
    match decode i.cmd with
    | .ok (.clrst m) => m
    | _ => 0
  else 0

/-- The 5-bit code of an ENC or SETSH response (R68, R70). -/
def responseCode (v : Rsp) : Code := v.extractLsb' 0 5

/-- A DEC has delivered this character (R69: `VALID`, `CHAR`) and both shift states agree. -/
def State.delivered (s : State) (c : Byte) : Prop :=
  s.rspErr = false ∧ s.rspData.getLsbD 8 = true ∧ s.rspData.extractLsb' 0 8 = c ∧
  s.codec.sendShift = s.codec.recvShift

end Sys2Proof.Machine
end

