-- ==== Sys2Proof/Certificates/Slice0/Obligations.lean ====
section
/-! DEFINITION. The statements for the provers, from the numbered rules of spec/. `exec` is the command phase on the
state the engine phase of its step left (S1), `enginePhase` the engine phase of one step, `step` the whole step. -/

open Sys2Proof Sys2Proof.Machine

-- ---------------------------------------------------------------- encoding

/-- Encoding then decoding gives the instruction back, for every operand of every instruction (30_encoding.md). -/
def Obligations.DecodeReadsBackEncode : Prop := ∀ i : Instr, decode (encode i) = .ok i

/-- A word that decodes is the word its instruction encodes to: no bit of an accepted word is dropped. -/
def Obligations.EncodeReadsBackDecode : Prop := ∀ (w : Cmd) (i : Instr), decode w = .ok i → encode i = w

/-- 30_encoding.md: "A word with `(cmd AND mask) = match` is that command", and no other word is. -/
def Obligations.DecodeAcceptsExactlyTableRows : Prop :=
  ∀ w : Cmd, ∀ r ∈ opcodeTable, (∃ i, decode w = .ok i ∧ i.mnemonic = r.mnemonic) ↔ w &&& r.mask = r.pattern

/-- Words written out in 95_test_vectors.md decode to their commands. -/
def Obligations.WrittenWordsDecode : Prop :=
  decode 0x100015 = .ok (.txput 0x15) ∧ decode 0x300005 = .ok (.rdreg 5) ∧ decode 0x401000 = .ok (.clrst 0x10) ∧
  decode 0x500457 = .ok (.setdiv 1111) ∧ decode 0x600002 = .ok (.setwid .five .eight) ∧
  decode 0x90001F = .ok (.dec 0x1F) ∧ decode 0xA00003 = .ok (.setsh .receive .figs) ∧
  decode 0xD1BFFF = .ok (.tblwr 6 .figures 31 0xFF) ∧ decode 0xE02500 = .ok (.tblrd 0 .figures 5) ∧
  decode 0xF00002 = .error .reservedBits

/-- 30_encoding.md section 6 (R34, R35): a line of each mnemonic whose operands fit is one command, whose word is the number
of the "encoded as" column, and any other is refused; each pseudo-instruction is its expansion, and POLL presents RDREG
until its masked value is read. Which CLRST numbers fit, and WAIT 0, are the model's reading (log entry 8), SETBAUD 0 is
refused by its choice (log entry 7), and so is a POLL whose mask or value is 65536 or more (log entry 13). -/
def Obligations.AssembledLineIsItsWord : Prop :=
  ∀ p : Params,
    assemblesTo p .nop 0x000000 ∧ assemblesTo p .rxget 0x200000 ∧ assemblesTo p .sendbrk 0x700000 ∧
    (∀ b, if b < 256 then assemblesTo p (.txput b) (0x100000 + b) else assemble p (.txput b) = none) ∧
    (∀ r, if r < 8 then assemblesTo p (.rdreg r) (0x300000 + r) else assemble p (.rdreg r) = none) ∧
    (∀ m, if m % 256 = 0 ∧ m < 8192 then assemblesTo p (.clrst m) (0x400000 + m) else assemble p (.clrst m) = none) ∧
    (∀ v, if v < 65536 then assemblesTo p (.setdiv v) (0x500000 + v) else assemble p (.setdiv v) = none) ∧
    (∀ r x, if (r = 5 ∨ r = 8) ∧ (x = 5 ∨ x = 8) then
        assemblesTo p (.setwid r x) (0x600000 + 2 * (if x = 8 then 1 else 0) + (if r = 8 then 1 else 0))
      else assemble p (.setwid r x) = none) ∧
    (∀ b, if b < 256 then assemblesTo p (.enc b) (0x800000 + b) else assemble p (.enc b) = none) ∧
    (∀ c, if c < 32 then assemblesTo p (.dec c) (0x900000 + c) else assemble p (.dec c) = none) ∧
    (∀ (d : Dir) (q : ShiftState), assemblesTo p (.setsh d q)
      (0xA00000 + 2 * (if d = .receive then 1 else 0) + (if q = .figs then 1 else 0))) ∧
    (∀ u, if u < 2 then assemblesTo p (.setusos u) (0xB00000 + u) else assemble p (.setusos u) = none) ∧
    (∀ v, if v < 256 then assemblesTo p (.setsel v) (0xC00000 + v) else assemble p (.setsel v) = none) ∧
    (∀ (t : Nat) (k : Bank) (i b : Nat), if t < 8 ∧ i < 32 ∧ b < 256 then
        assemblesTo p (.tblwr t k i b)
          (0xD00000 + t * 0x4000 + (if k = .figures then 1 else 0) * 0x2000 + i * 0x100 + b)
      else assemble p (.tblwr t k i b) = none) ∧
    (∀ (t : Nat) (k : Bank) (i : Nat), if t < 8 ∧ i < 32 then
        assemblesTo p (.tblrd t k i) (0xE00000 + t * 0x4000 + (if k = .figures then 1 else 0) * 0x2000 + i * 0x100)
      else assemble p (.tblrd t k i) = none) ∧
    assemblesTo p (.relay true) 0xF00001 ∧ assemblesTo p (.relay false) 0xF00000 ∧
    assemble p .idle = some [.idle] ∧ HostAction.idle.presents = none ∧
    (∀ n, if 1 ≤ n then assemble p (.wait n) = some (List.replicate n .idle) else assemble p (.wait n) = none) ∧
    assemblesTo p .clrall 0x401F00 ∧ assemblesTo p .mode5 0x600000 ∧ assemblesTo p .mode8 0x600003 ∧
    assemblesTo p .shiftl 0xA00000 ∧ assemblesTo p .shiftf 0xA00001 ∧
    assemblesTo p .poweron 0xF00001 ∧ assemblesTo p .poweroff 0xF00000 ∧
    (∀ r, if 1 ≤ r then ∃ d, baudToDivisor p r = some d ∧ d ≤ 65535 ∧ assemblesTo p (.setbaud r) (0x500000 + d)
      else assemble p (.setbaud r) = none) ∧
    (∀ r m v, if r < 8 ∧ m < 65536 ∧ v < 65536 then
        ∃ a : HostAction, assemble p (.poll r m v) = some [a] ∧
          a = .poll (BitVec.ofNat 3 r) (BitVec.ofNat 16 m) (BitVec.ofNat 16 v) ∧
          a.presents = some (.rdreg (BitVec.ofNat 3 r))
      else assemble p (.poll r m v) = none) ∧
    (∀ (m v : Rsp) (s : State), pollDone m v s = true ↔ s.rspData &&& m = v)

-- ---------------------------------------------------------------- the step

/-- A step that presents a decodable word runs that command on the state its engine phase left, after latching the
step's inputs (R36); the latch touches nothing of the block, and the engine phase writes neither the configuration nor
the codec, whose elements change only in the command phase (R37, 42_codec.md introduction), nor the response. -/
def Obligations.StepRunsDecodedCommand : Prop :=
  (∀ (s : State) (i : Instr), s.par.wf = true → s.performs i →
    step s = exec i (enginePhase s.takeInput) ∧
    s.takeInput =
      { s with inp := s.nextInput, ev := Sticky.none, inputs := s.inputs.tail, stepNo := s.stepNo + 1 }) ∧
  (∀ s : State,
    (enginePhase s).div = s.div ∧ (enginePhase s).rxWCfg = s.rxWCfg ∧ (enginePhase s).txWCfg = s.txWCfg ∧
    (enginePhase s).codec = s.codec ∧ (enginePhase s).tbl = s.tbl ∧ (enginePhase s).rspErr = s.rspErr ∧
    (enginePhase s).rspData = s.rspData ∧ (enginePhase s).par = s.par ∧ (enginePhase s).inp = s.inp ∧
    (enginePhase s).inputs = s.inputs ∧ (enginePhase s).stepNo = s.stepNo)

/-- R31: a word that is no row of the opcode table fails with `RSVD_BITS`, in every state, and changes no state:
what is left is what the engine phase left, with the response (1, 1). -/
def Obligations.ReservedBitIsRefused : Prop :=
  ∀ s : State, s.par.wf = true → s.nextInput.rst = false → s.nextInput.cmdValid = true →
    (∀ r ∈ opcodeTable, s.nextInput.cmd &&& r.mask ≠ r.pattern) →
    step s = .next { enginePhase s.takeInput with rspErr := true, rspData := 1 }

/-- A reset step (R93) runs neither phase, whatever the state, the command and the line are: every element is at the
value of 10_state.md's reset column, the response is (0, 0), and the outputs are those of the reset state. -/
def Obligations.ResetStepGivesResetValues : Prop :=
  ∀ s : State, s.par.wf = true → s.nextInput.rst = true →
    ∃ t, step s = .next t ∧
      t.div = s.par.divDefault ∧ t.rxWCfg = .five ∧ t.txWCfg = .five ∧
      t.rx = { state := .idle, cnt := 0, bit := 0, shift := 0, n := .five, prev := false, data := 0, ready := false } ∧
      t.line = { lowcnt := 0, brk := false, fe := false } ∧
      t.tx = { state := .idle, cnt := 0, bit := 0, shift := 0, n := .five, lineOut := true } ∧
      t.sticky = { feev := false, fefall := false, ovr := false, txrej := false, hbr := false } ∧ t.hbrPrev = true ∧
      t.codec = { sendShift := .ltrs, recvShift := .ltrs, usos := false, sel := 0 } ∧
      t.relay = { state := .off, phase := 0, cnt := 0, loopRelay := false, acRelay := false,
                  ledA := false, ledB := false } ∧
      (∀ i : Code, t.tblRead 0 .letters i = s.par.canonL.getD i.toNat s.par.unused ∧
        t.tblRead 0 .figures i = s.par.canonF.getD i.toNat s.par.unused) ∧
      (∀ (n : Fin 7) (k : Bank) (i : Code), n ≠ 0 → t.tblRead n k i = s.par.unused) ∧
      t.outputs = { rspErr := false, rspData := 0, lineOut := true, loopRelay := false, acRelay := false,
                    ledA := false, ledB := false } ∧
      t.par = s.par

/-- The state after reset with this hardware's parameters (10_state.md section 10, 42_codec.md section 4): the 50 baud
divisor, and the canonical table. -/
def Obligations.ResetHoldsDefaults : Prop :=
  State.reset.div = 1667 ∧ State.reset.tx.lineOut = true ∧ State.reset.hbrPrev = true ∧ State.reset.rx.prev = false ∧
  (slots.map (State.reset.tblRead 0 .letters)) =
    [0x00, 0x45, 0x0A, 0x41, 0x20, 0x53, 0x49, 0x55, 0x0D, 0x44, 0x52, 0x4A, 0x4E, 0x46, 0x43, 0x4B,
     0x54, 0x5A, 0x4C, 0x57, 0x48, 0x59, 0x50, 0x51, 0x4F, 0x42, 0x47, 0x00, 0x4D, 0x58, 0x56, 0x00] ∧
  (slots.map (State.reset.tblRead 0 .figures)) =
    [0x00, 0x33, 0x0A, 0x2D, 0x20, 0x07, 0x38, 0x37, 0x0D, 0x24, 0x34, 0x27, 0x2C, 0x21, 0x3A, 0x28,
     0x35, 0x22, 0x29, 0x32, 0x23, 0x36, 0x30, 0x31, 0x39, 0x3F, 0x26, 0x00, 0x2E, 0x2F, 0x3B, 0x00]

/-- R87: "No input sequence and no command sequence stops the block": every run, of any length, from any state with
accepted parameters, whatever inputs are written down and whatever the free ones are. -/
def Obligations.RunsNeverStop : Prop := ∀ (s : State) (k : Nat), s.par.wf = true → ∃ t, runsTo k s t ∧ t.par = s.par

/-- The constraint column of R5, and what the model does with a configuration outside it: a step refuses it, and
refuses nothing else. -/
def Obligations.OnlyBadParametersAreRefused : Prop :=
  (∀ p : Params, p.wf = true ↔
    1 ≤ p.fStep ∧ p.divDefault ≠ 0 ∧ p.breakTicks ≠ 0 ∧ p.phaseTicks ≠ 0 ∧ 1 ≤ p.onIters ∧ p.onIters ≤ 8 ∧
    1 ≤ p.offIters ∧ p.offIters ≤ 8 ∧ p.ltrsCode ≠ p.figsCode ∧ p.canonL.length = 32 ∧ p.canonF.length = 32) ∧
  (∀ (s : State) (r : Refusal), step s = .refused r ↔ s.par.wf = false ∧ r = .badParameters)

-- ---------------------------------------------------------------- status

/-- R38: a sticky bit after a step is what it was, unless a CLRST of this step names it, or an event of this step
set it; and nothing else clears one but reset. -/
def Obligations.StickyBitsSetAndClear : Prop :=
  ∀ (s t : State) (b : StickyBit), step s = .next t → s.nextInput.rst = false →
    t.sticky.get b = ((s.sticky.get b && !(clearMask s.nextInput).getLsbD b.index) || t.ev.get b) ∧
    (enginePhase s.takeInput).sticky.get b = (s.sticky.get b || (enginePhase s.takeInput).ev.get b)

/-- The events of a step (R49, R52, R54, R60): what sets each sticky bit, and nothing else does. -/
def Obligations.EventsOfAStep : Prop :=
  ∀ (s t : State), step s = .next t → s.nextInput.rst = false →
    (t.ev.feev = true ↔ s.rx.state = .stopCheck ∧ s.rx.cnt = 1 ∧ s.nextInput.lineIn = false) ∧
    (t.ev.ovr = true ↔
      s.rx.state = .stopCheck ∧ s.rx.cnt = 1 ∧ s.nextInput.lineIn = true ∧ s.rx.ready = true) ∧
    (t.ev.fefall = true ↔ s.nextInput.lineIn = true ∧ s.line.fe = true) ∧
    (t.ev.hbr = true ↔ s.hbrPrev = false ∧ s.nextInput.hostBrkIn = true) ∧
    (t.ev.txrej = true ↔
      (∃ b, s.performs (.txput b)) ∧ (enginePhase s.takeInput).tx.state ≠ .idle)

/-- The fields of STATUS (10_state.md section 8), bit by bit. -/
def Obligations.StatusRegisterBits : Prop :=
  ∀ s : State,
    s.statusReg.getLsbD 0 = s.rx.ready ∧ s.statusReg.getLsbD 1 = decide (s.tx.state = .idle) ∧
    s.statusReg.getLsbD 2 = s.line.fe ∧ s.statusReg.getLsbD 3 = s.line.brk ∧
    s.statusReg.getLsbD 4 = decide (s.tx.state = .sendBreak) ∧ s.statusReg.getLsbD 5 = s.rx.prev ∧
    s.statusReg.getLsbD 6 = s.inp.forcedIn ∧ s.statusReg.getLsbD 7 = s.inp.modeIn ∧
    s.statusReg.getLsbD 8 = s.sticky.feev ∧ s.statusReg.getLsbD 9 = s.sticky.fefall ∧
    s.statusReg.getLsbD 10 = s.sticky.ovr ∧ s.statusReg.getLsbD 11 = s.sticky.txrej ∧
    s.statusReg.getLsbD 12 = s.sticky.hbr ∧ s.statusReg.extractLsb' 13 3 = 0

/-- R17: the fields of DIV, CONFIG, SHIFT, RELAY and ENGINE; bits not listed read 0; and the numbers RSTATE, RXST and TXST
show for each state (R15, R9, R11). And the output ports of a step (R36, R76) are the elements of their names in the state
the step leaves; that the response is held there is the model's (log entry 12). -/
def Obligations.OtherRegisterFields : Prop :=
  ∀ s : State,
    s.divReg = s.div ∧
    (s.configReg.getLsbD 0 = decide (s.rxWCfg = .eight) ∧ s.configReg.getLsbD 1 = decide (s.txWCfg = .eight) ∧
      s.configReg.getLsbD 2 = s.codec.usos ∧ s.configReg.getLsbD 3 = false ∧
      (s.configReg.extractLsb' 4 3).toNat = s.codec.sel.val ∧ s.configReg.getLsbD 7 = decide (s.rx.n = .eight) ∧
      s.configReg.getLsbD 8 = decide (s.tx.n = .eight) ∧ s.configReg.extractLsb' 9 7 = 0) ∧
    (s.shiftReg.getLsbD 0 = decide (s.codec.sendShift = .figs) ∧
      s.shiftReg.getLsbD 1 = decide (s.codec.recvShift = .figs) ∧ s.shiftReg.extractLsb' 2 14 = 0) ∧
    ((s.relay.state = .off ↔ s.relayReg.extractLsb' 0 2 = 0) ∧
      (s.relay.state = .poweringOn ↔ s.relayReg.extractLsb' 0 2 = 1) ∧
      (s.relay.state = .enabled ↔ s.relayReg.extractLsb' 0 2 = 2) ∧
      (s.relay.state = .poweringOff ↔ s.relayReg.extractLsb' 0 2 = 3) ∧ s.relayReg.getLsbD 2 = s.relay.loopRelay ∧
      s.relayReg.getLsbD 3 = s.relay.acRelay ∧ s.relayReg.getLsbD 4 = s.relay.ledA ∧
      s.relayReg.getLsbD 5 = s.relay.ledB ∧ s.relayReg.getLsbD 6 = s.inp.forcedIn ∧
      s.relayReg.extractLsb' 7 4 = s.relay.phase ∧ s.relayReg.extractLsb' 11 5 = 0) ∧
    ((s.rx.state = .idle ↔ s.engineReg.extractLsb' 0 2 = 0) ∧
      (s.rx.state = .startDetected ↔ s.engineReg.extractLsb' 0 2 = 1) ∧
      (s.rx.state = .samplingBits ↔ s.engineReg.extractLsb' 0 2 = 2) ∧
      (s.rx.state = .stopCheck ↔ s.engineReg.extractLsb' 0 2 = 3) ∧ s.engineReg.extractLsb' 2 4 = s.rx.bit ∧
      (s.tx.state = .idle ↔ s.engineReg.extractLsb' 6 3 = 0) ∧
      (s.tx.state = .sendStart ↔ s.engineReg.extractLsb' 6 3 = 1) ∧
      (s.tx.state = .sendData ↔ s.engineReg.extractLsb' 6 3 = 2) ∧
      (s.tx.state = .sendStop ↔ s.engineReg.extractLsb' 6 3 = 3) ∧
      (s.tx.state = .sendBreak ↔ s.engineReg.extractLsb' 6 3 = 4) ∧ s.engineReg.extractLsb' 9 3 = s.tx.bit ∧
      s.engineReg.extractLsb' 12 4 = 0) ∧
    s.outputs = { rspErr := s.rspErr, rspData := s.rspData, lineOut := s.tx.lineOut,
                  loopRelay := s.relay.loopRelay, acRelay := s.relay.acRelay,
                  ledA := s.relay.ledA, ledB := s.relay.ledB }

/-- R83: a failing command, refused for its reserved bits or by its own rule, changes nothing but the response, with one
exception: a TXPUT, which can only fail with `TX_BUSY`, then sets `txrej` and nothing else; what the engine phase left
(here `s`) stands. -/
def Obligations.FailingCommandChangesNothing : Prop :=
  ∀ s t : State, commandPhase s = .next t → t.rspErr = true →
    ((∃ b, decode s.inp.cmd = .ok (.txput b)) →
      t.rspData = 3 ∧
      { t with rspErr := s.rspErr, rspData := s.rspData } =
        { s with sticky := { s.sticky with txrej := true }, ev := { s.ev with txrej := true } }) ∧
    (¬(∃ b, decode s.inp.cmd = .ok (.txput b)) → { t with rspErr := s.rspErr, rspData := s.rspData } = s)

/-- R82, R84: which command fails with which code, and when: `RSVD_BITS` before anything else, then `RSVD_SEL`, then the
command's own condition; in every other case, and without a command, it succeeds. -/
def Obligations.ErrorCodesAndTheirCauses : Prop :=
  ∀ s t : State, commandPhase s = .next t →
    (s.inp.cmdValid = false → t.rspErr = false ∧ t.rspData = 0) ∧
    (s.inp.cmdValid = true → decode s.inp.cmd = .error .reservedBits → t.rspErr = true ∧ t.rspData = 1) ∧
    (∀ i : Instr, s.inp.cmdValid = true → decode s.inp.cmd = .ok i →
      (t.rspErr = true ↔
        ((∃ r, i = .rdreg r ∧ 6 ≤ r.toNat) ∨ (∃ k x b, i = .tblwr 7 k x b) ∨ (∃ k x, i = .tblrd 7 k x)) ∨
        ((∃ b, i = .txput b) ∧ s.tx.state ≠ .idle) ∨ (i = .sendbrk ∧ s.tx.state = .sendBreak) ∨
        (i = .rxget ∧ s.rx.ready = false) ∨
        ((∃ on, i = .relay on) ∧ (s.relay.state = .poweringOn ∨ s.relay.state = .poweringOff))) ∧
      (t.rspErr = true →
        (((∃ r, i = .rdreg r) ∨ (∃ n k x b, i = .tblwr n k x b) ∨ (∃ n k x, i = .tblrd n k x)) → t.rspData = 2) ∧
        (((∃ b, i = .txput b) ∨ i = .sendbrk) → t.rspData = 3) ∧
        (i = .rxget → t.rspData = 4) ∧ ((∃ on, i = .relay on) → t.rspData = 5)))

-- ---------------------------------------------------------------- bit timing

/-- R41: NOP answers 0 and writes nothing; so does the command phase of a step without a command, and the whole of that
step is its engine phase and the response (0, 0), whatever `cmd` holds. -/
def Obligations.NopAnswersZero : Prop :=
  (∀ s : State, exec .nop s = .next { s with rspErr := false, rspData := 0 }) ∧
  (∀ s : State, s.inp.cmdValid = false → commandPhase s = .next { s with rspErr := false, rspData := 0 }) ∧
  (∀ s : State, s.par.wf = true → s.nextInput.rst = false → s.nextInput.cmdValid = false →
    step s = .next { enginePhase s.takeInput with rspErr := false, rspData := 0 }) ∧
  readsAs 0 (fun w => field w 0 20 = 0) (fun _ => .nop)

/-- R42: SETDIV loads the divisor (0 loads `DIV_DEFAULT`) and restarts the current bit of each direction in a frame;
a break is not touched, and the bit index, the received bits and the byte in flight are kept. -/
def Obligations.SetdivLoadsAndRestarts : Prop :=
  (∀ (v : BitVec 16) (s : State),
    let d := if v = 0 then s.par.divDefault else v
    exec (.setdiv v) s =
      .next { s with
        div := d
        rx := { s.rx with cnt := if s.rx.state = .idle then s.rx.cnt else d.setWidth 17 }
        tx := { s.tx with cnt :=
          if s.tx.state = .sendStart ∨ s.tx.state = .sendData ∨ s.tx.state = .sendStop then d.setWidth 17
          else s.tx.cnt }
        rspErr := false
        rspData := d }) ∧
  readsAs 5 (fun w => field w 16 4 = 0) (fun w => .setdiv (field w 0 16))

/-- R43, R44: the divisor of a rate and the label of a divisor: the table's where it has the rate or the divisor, else
the rounded formula, for a divisor clamped to 1..65535; rate 0 has none; the label is at least 1 for every 16-bit
divisor when `F_STEP` ≥ 32768. -/
def Obligations.DivisorLabelsFollowTableOrFormula : Prop :=
  baudTable = [(45, 1852), (50, 1667), (56, 1488), (75, 1111), (110, 758)] ∧
  (∀ p : Params, baudToDivisor p 0 = none) ∧
  (∀ (p : Params) (r : Nat), 1 ≤ r →
    (∀ d, (r, d) ∈ baudTable → baudToDivisor p r = some d) ∧
    ((∀ d, (r, d) ∉ baudTable) → baudToDivisor p r = some (max 1 (min 65535 ((p.fStep + r / 2) / r))))) ∧
  (∀ (p : Params) (d : Nat), 1 ≤ d →
    (∀ r, (r, d) ∈ baudTable → divisorToBaud p d = some r) ∧
    ((∀ r, (r, d) ∉ baudTable) → divisorToBaud p d = some ((p.fStep + d / 2) / d)) ∧
    (d ≤ 65535 → 32768 ≤ p.fStep → 1 ≤ (p.fStep + d / 2) / d)) ∧
  divisorToBaud Params.standard 9999 = some 8

-- ---------------------------------------------------------------- framer, engine phase

/-- R46, R47 (and R53 for the history): in `IDLE` the width is latched, and a high sample followed by a low one starts
a frame; a frame in progress keeps its width; "No other condition starts a frame", in the engine phase or by a
command. -/
def Obligations.StartEdgeArmsReceiver : Prop :=
  (∀ s : State, s.rx.state = .idle →
    (enginePhase s).rx =
      if s.rx.prev = true ∧ s.inp.lineIn = false then
        { s.rx with n := s.rxWCfg, state := .startDetected, cnt := BitVec.ofNat 17 (s.div.toNat / 2 + s.div.toNat),
                    bit := 0, shift := 0, prev := false }
      else { s.rx with n := s.rxWCfg, prev := s.inp.lineIn }) ∧
  (∀ s : State, s.rx.state ≠ .idle →
    (enginePhase s).rx.n = s.rx.n ∧ (enginePhase s).rx.prev = s.inp.lineIn) ∧
  (∀ s t : State, step s = .next t → t.rx.state = .startDetected →
    s.rx.state = .startDetected ∨ (s.rx.state = .idle ∧ s.rx.prev = true ∧ s.nextInput.lineIn = false))

/-- 41_framer.md section 1, data sampling: in a frame before the stop bit, a step counts down, or takes data bit
`rx_bit` from the line and leaves every other bit. -/
def Obligations.DataBitIsSampled : Prop :=
  ∀ s : State, s.rx.state = .startDetected ∨ s.rx.state = .samplingBits →
    (s.rx.cnt ≠ 1 → (enginePhase s).rx = { s.rx with cnt := s.rx.cnt - 1, prev := s.inp.lineIn }) ∧
    (s.rx.cnt = 1 →
      (∀ j, j < 8 → (enginePhase s).rx.shift.getLsbD j =
        if j = s.rx.bit.toNat then s.inp.lineIn else s.rx.shift.getLsbD j) ∧
      (enginePhase s).rx.bit = s.rx.bit + 1 ∧ (enginePhase s).rx.cnt.toNat = s.div.toNat ∧
      ((enginePhase s).rx.state = .stopCheck ↔ s.rx.bit.toNat + 1 = dataBits s.rx.n) ∧
      ((enginePhase s).rx.state = .samplingBits ↔ s.rx.bit.toNat + 1 ≠ dataBits s.rx.n) ∧
      (enginePhase s).rx.n = s.rx.n ∧ (enginePhase s).rx.data = s.rx.data ∧
      (enginePhase s).rx.ready = s.rx.ready)

/-- 41_framer.md section 1, stop check: at the stop sample the receiver returns to `IDLE`; a high stop bit delivers the
byte (the newer one wins, and `ovr` tells), a low one sets `fe` and `feev` and delivers nothing. -/
def Obligations.StopBitDecidesByte : Prop :=
  ∀ s : State, s.rx.state = .stopCheck →
    (s.rx.cnt ≠ 1 → (enginePhase s).rx = { s.rx with cnt := s.rx.cnt - 1, prev := s.inp.lineIn }) ∧
    (s.rx.cnt = 1 → s.inp.lineIn = true →
      (enginePhase s).rx = { s.rx with state := .idle, cnt := 0, prev := true, ready := true,
                                       data := (enginePhase s).rx.data } ∧
      (∀ j, j < 8 → (enginePhase s).rx.data.getLsbD j = (decide (j < dataBits s.rx.n) && s.rx.shift.getLsbD j)) ∧
      (enginePhase s).sticky.ovr = (s.sticky.ovr || s.rx.ready)) ∧
    (s.rx.cnt = 1 → s.inp.lineIn = false →
      (enginePhase s).rx = { s.rx with state := .idle, cnt := 0, prev := false } ∧
      (enginePhase s).line.fe = true ∧ (enginePhase s).sticky.feev = true ∧
      (enginePhase s).sticky.ovr = s.sticky.ovr)

/-- R51, R52: the line condition of every engine phase, whatever the receiver does. A high sample clears the low count, the
break and `fe`, and a 1-to-0 change of `fe` sets `fefall`. A low one counts, saturating at 1048575, and a count above
FRAME of the current divisor and of `rx_n` (as unit 1 left it: the configured width in `IDLE`) sets the break and `fe`;
both otherwise stay, but for the `fe` of a low stop bit in this step (R49). -/
def Obligations.HighLineEndsBreak : Prop :=
  (∀ s : State, s.inp.lineIn = true →
    (enginePhase s).line = { lowcnt := 0, brk := false, fe := false } ∧
    (enginePhase s).sticky.fefall = (s.sticky.fefall || s.line.fe)) ∧
  (∀ s : State, s.inp.lineIn = false →
    let n := if s.rx.state = .idle then s.rxWCfg else s.rx.n
    let count := min (s.line.lowcnt.toNat + 1) 1048575
    (enginePhase s).line.lowcnt.toNat = count ∧
    ((enginePhase s).line.brk = true ↔ s.line.brk = true ∨ (dataBits n + 2) * s.div.toNat < count) ∧
    ((enginePhase s).line.fe = true ↔
      s.line.fe = true ∨ (dataBits n + 2) * s.div.toNat < count ∨ (s.rx.state = .stopCheck ∧ s.rx.cnt = 1)) ∧
    (enginePhase s).sticky.fefall = s.sticky.fefall)

/-- R54: a rising edge of `host_brk_in` sets `hbr`, a level held high does not; and no break starts but by SENDBRK:
"The block never starts a break by itself". -/
def Obligations.HostBreakRequestOnlyRecords : Prop :=
  (∀ s : State,
    (enginePhase s).sticky.hbr = (s.sticky.hbr || (!s.hbrPrev && s.inp.hostBrkIn)) ∧
    (enginePhase s).hbrPrev = s.inp.hostBrkIn) ∧
  (∀ s t : State, step s = .next t → s.tx.state ≠ .sendBreak → t.tx.state = .sendBreak → s.performs .sendbrk)

/-- The source's "takes effect between frames only, never mid-frame" (41_framer.md): a frame in progress keeps its
receive width, and the transmit width changes only in a step whose TXPUT is accepted. -/
def Obligations.WidthsLatchBetweenFrames : Prop :=
  ∀ s t : State, step s = .next t → s.nextInput.rst = false →
    (s.rx.state ≠ .idle → t.rx.n = s.rx.n) ∧ (s.rx.state = .idle → t.rx.n = s.rxWCfg) ∧
    (t.tx.n = s.tx.n ∨
      (t.tx.n = s.txWCfg ∧ (∃ b, s.performs (.txput b)) ∧ (enginePhase s.takeInput).tx.state = .idle))

-- ---------------------------------------------------------------- framer, commands

/-- R60: TXPUT. In `IDLE` the byte is taken, the width latched and the start bit driven; otherwise the command fails
with `TX_BUSY`, sets `txrej`, and queues nothing. -/
def Obligations.TxputTakesOrRefuses : Prop :=
  (∀ (b : Byte) (s : State),
    (s.tx.state = .idle →
      exec (.txput b) s =
        .next { s with
          tx := { state := .sendStart, cnt := s.div.setWidth 17, bit := 0, shift := b, n := s.txWCfg, lineOut := false }
          rspErr := false
          rspData := 0 }) ∧
    (s.tx.state ≠ .idle →
      exec (.txput b) s =
        .next { s with
          sticky := { s.sticky with txrej := true }
          ev := { s.ev with txrej := true }
          rspErr := true
          rspData := 3 })) ∧
  readsAs 1 (fun w => field w 8 12 = 0) (fun w => .txput (field w 0 8))

/-- R61: RXGET. -/
def Obligations.RxgetTakesByte : Prop :=
  (∀ s : State,
    (s.rx.ready = true →
      exec .rxget s =
        .next { s with rx := { s.rx with ready := false }, rspErr := false, rspData := s.rx.data.setWidth 16 }) ∧
    (s.rx.ready = false → exec .rxget s = .next { s with rspErr := true, rspData := 4 })) ∧
  readsAs 2 (fun w => field w 0 20 = 0) (fun _ => .rxget)

/-- 41_framer.md section 5, SENDBRK: a frame in flight is cut short; a break in progress is not restarted. -/
def Obligations.SendbrkForcesLineLow : Prop :=
  (∀ s : State,
    (s.tx.state ≠ .sendBreak →
      exec .sendbrk s =
        .next { s with
          tx := { s.tx with state := .sendBreak, cnt := s.par.breakTicks, bit := 0, lineOut := false }
          rspErr := false
          rspData := 0 }) ∧
    (s.tx.state = .sendBreak → exec .sendbrk s = .next { s with rspErr := true, rspData := 3 })) ∧
  readsAs 7 (fun w => field w 0 20 = 0) (fun _ => .sendbrk)

/-- 41_framer.md section 5, SETWID: only the configured widths change. -/
def Obligations.SetwidConfiguresWidths : Prop :=
  (∀ (r x : DataWidth) (s : State),
    ∃ v : Rsp, exec (.setwid r x) s = .next { s with rxWCfg := r, txWCfg := x, rspErr := false, rspData := v } ∧
      v.toNat = 2 * x.toNat + r.toNat) ∧
  readsAs 6 (fun w => field w 2 18 = 0)
    (fun w => .setwid (if field w 0 1 = 1 then .eight else .five) (if field w 1 1 = 1 then .eight else .five))

/-- R64: RDREG answers the register and changes nothing; registers 6 and 7 fail with `RSVD_SEL`. -/
def Obligations.RdregReadsWithoutEffect : Prop :=
  (∀ s : State,
    exec (.rdreg 0) s = .next { s with rspErr := false, rspData := s.statusReg } ∧
    exec (.rdreg 1) s = .next { s with rspErr := false, rspData := s.divReg } ∧
    exec (.rdreg 2) s = .next { s with rspErr := false, rspData := s.configReg } ∧
    exec (.rdreg 3) s = .next { s with rspErr := false, rspData := s.shiftReg } ∧
    exec (.rdreg 4) s = .next { s with rspErr := false, rspData := s.relayReg } ∧
    exec (.rdreg 5) s = .next { s with rspErr := false, rspData := s.engineReg } ∧
    exec (.rdreg 6) s = .next { s with rspErr := true, rspData := 2 } ∧
    exec (.rdreg 7) s = .next { s with rspErr := true, rspData := 2 }) ∧
  readsAs 3 (fun w => field w 3 17 = 0) (fun w => .rdreg (field w 0 3))

/-- R65: CLRST clears the sticky bits its mask names, but not one an event of this step set, and answers STATUS as it
then is. -/
def Obligations.ClrstClearsNamedBits : Prop :=
  (∀ (m : BitVec 5) (s : State),
    ∃ x : Sticky,
      (∀ b : StickyBit, x.get b = ((s.sticky.get b && !m.getLsbD b.index) || s.ev.get b)) ∧
      exec (.clrst m) s =
        .next { s with sticky := x, rspErr := false, rspData := State.statusReg { s with sticky := x } }) ∧
  readsAs 4 (fun w => field w 13 7 = 0 ∧ field w 0 8 = 0) (fun w => .clrst (field w 8 5))

-- ---------------------------------------------------------------- framer, over many steps

/-- 41_framer.md sections 4 and 5. Each step of the transmit machine (R55 to R59), at whatever divisor is then current: it
rests in `IDLE`, counts down, or at a bit edge drives the next bit for `div` steps. And the frame an accepted TXPUT sends:
`k` steps later the line is at the level of bit `k div div` of the frame (start bit, data bits least significant first,
stop bit), whatever the host does but SETDIV and SENDBRK, and FRAME steps later the transmitter is idle, unless a TXPUT
came. -/
def Obligations.TransmittedFrameWaveform : Prop :=
  (∀ s : State,
    (s.tx.state = .idle → (enginePhase s).tx = s.tx) ∧
    (s.tx.state ≠ .idle → s.tx.cnt ≠ 1 → (enginePhase s).tx = { s.tx with cnt := s.tx.cnt - 1 }) ∧
    (s.tx.state = .sendStart → s.tx.cnt = 1 →
      (enginePhase s).tx =
        { s.tx with state := .sendData, bit := 0, lineOut := s.tx.shift.getLsbD 0, cnt := s.div.setWidth 17 }) ∧
    (s.tx.state = .sendData → s.tx.cnt = 1 → s.tx.bit.toNat + 1 < dataBits s.tx.n →
      (enginePhase s).tx =
        { s.tx with bit := s.tx.bit + 1, lineOut := s.tx.shift.getLsbD (s.tx.bit.toNat + 1),
                    cnt := s.div.setWidth 17 }) ∧
    (s.tx.state = .sendData → s.tx.cnt = 1 → dataBits s.tx.n ≤ s.tx.bit.toNat + 1 →
      (enginePhase s).tx = { s.tx with state := .sendStop, lineOut := true, cnt := s.div.setWidth 17 }) ∧
    (s.tx.state = .sendStop → s.tx.cnt = 1 →
      (enginePhase s).tx = { s.tx with state := .idle, bit := 0, cnt := 0 }) ∧
    (s.tx.state = .sendBreak → s.tx.cnt = 1 →
      (enginePhase s).tx = { s.tx with state := .idle, lineOut := true, cnt := 0 })) ∧
  (∀ (s s₁ : State) (b : Byte) (k : Nat), s.par.wf = true → s.div ≠ 0 → s.tx.state = .idle →
    exec (.txput b) s = .next s₁ → k ≤ frameSteps s.div s.txWCfg → s₁.quietRun [5, 7] k →
    ∃ t, runsTo k s₁ t ∧
      (k < frameSteps s.div s.txWCfg →
        t.tx.state ≠ .idle ∧ t.tx.lineOut = frameLevel s.div s.txWCfg b true k) ∧
      (k = frameSteps s.div s.txWCfg → s₁.quietRun [1] k → t.tx.state = .idle ∧ t.tx.lineOut = true))

/-- 41_framer.md sections 4 and 5: "The line is low for exactly `BREAK_TICKS` steps from the SENDBRK step", whatever
the host does (SETDIV does not change it), and then idle and high, unless a TXPUT or SENDBRK came. -/
def Obligations.BreakLastsBreakTicks : Prop :=
  ∀ (s s₁ : State) (k : Nat), s.par.wf = true → s.tx.state ≠ .sendBreak → exec .sendbrk s = .next s₁ →
    k ≤ s.par.breakTicks.toNat → s₁.quietRun [] k →
    ∃ t, runsTo k s₁ t ∧
      (k < s.par.breakTicks.toNat → t.tx.state = .sendBreak ∧ t.tx.lineOut = false) ∧
      (k = s.par.breakTicks.toNat → s₁.quietRun [1, 7] k → t.tx.state = .idle ∧ t.tx.lineOut = true)

/-- 41_framer.md section 1: a frame on the line, its start edge in the first step, is received: its data bits when the
stop bit is high (over an untaken byte with `ovr`), a framing error and no byte when it is low; whatever the host
does but SETDIV and RXGET. -/
def Obligations.FrameOnLineIsReceived : Prop :=
  ∀ (s : State) (v : Byte) (stop : Bool), s.par.wf = true → s.div ≠ 0 → s.rx.state = .idle → s.rx.prev = true →
    s.quietRun [5, 2] (stopSample s.div s.rxWCfg + 1) →
    (∀ j, j ≤ stopSample s.div s.rxWCfg →
      (s.inputs.map (·.lineIn))[j]? = some (frameLevel s.div s.rxWCfg v stop j)) →
    ∃ t, runsTo (stopSample s.div s.rxWCfg + 1) s t ∧ t.rx.state = .idle ∧
      (stop = true → t.rx.data = lowBits s.rxWCfg v ∧ t.rx.ready = true ∧ t.line.fe = false ∧
        (s.rx.ready = true → t.sticky.ovr = true)) ∧
      (stop = false → t.rx.data = s.rx.data ∧ t.rx.ready = s.rx.ready ∧ t.line.fe = true ∧ t.sticky.feev = true)

/-- The source's property "the received byte bit-for-bit equals the transmitted byte" (R50, S2): a receiver of the same
divisor and width, whose line is what a transmitter drives, takes the byte sent. -/
def Obligations.SentByteIsReceived : Prop :=
  ∀ (s s₁ r : State) (b : Byte), s.par.wf = true → s.div ≠ 0 → s.tx.state = .idle → exec (.txput b) s = .next s₁ →
    s₁.quietRun [5, 7] (stopSample s.div s.txWCfg) →
    r.par.wf = true → r.div = s.div → r.rxWCfg = s.txWCfg → r.rx.state = .idle → r.rx.prev = true →
    r.quietRun [5, 2] (stopSample s.div s.txWCfg + 1) →
    (∀ (j : Nat) (u : State), j ≤ stopSample s.div s.txWCfg → runsTo j s₁ u →
      (r.inputs.map (·.lineIn))[j]? = some u.tx.lineOut) →
    ∃ t, runsTo (stopSample s.div s.txWCfg + 1) r t ∧ t.rx.ready = true ∧ t.rx.data = lowBits s.txWCfg b

/-- 41_framer.md section 2: a line that goes low and stays low for `k` steps is a break exactly when `k` is more than
one full frame, whatever the host does but SETDIV and SETWID. -/
def Obligations.LowLineBecomesBreak : Prop :=
  ∀ (s : State) (k : Nat), s.par.wf = true → s.line = { lowcnt := 0, brk := false, fe := false } →
    s.rx.n = s.rxWCfg → s.quietRun [5, 6] k → (∀ i ∈ s.inputs.take k, i.lineIn = false) →
    ∃ t, runsTo k s t ∧ (t.line.brk = true ↔ frameSteps s.div s.rxWCfg < k) ∧
      (frameSteps s.div s.rxWCfg < k → t.line.fe = true)

-- ---------------------------------------------------------------- codec

/-- R66: the search answers the least index that is no control slot and holds the character, none when no such index
exists, and never finds `UNUSED`. -/
def Obligations.FindAnswersLeastIndex : Prop :=
  ∀ (s : State) (n : Fin 7) (k : Bank) (c : Byte),
    (∀ i : Code, s.find n k c = some i ↔
      (i ≠ s.par.ltrsCode ∧ i ≠ s.par.figsCode ∧ c ≠ s.par.unused ∧ s.tblRead n k i = c) ∧
      ∀ j : Code, j.toNat < i.toNat →
        ¬(j ≠ s.par.ltrsCode ∧ j ≠ s.par.figsCode ∧ c ≠ s.par.unused ∧ s.tblRead n k j = c)) ∧
    (s.find n k c = none ↔
      ∀ j : Code, ¬(j ≠ s.par.ltrsCode ∧ j ≠ s.par.figsCode ∧ c ≠ s.par.unused ∧ s.tblRead n k j = c))

/-- R68: ENC. In the current bank the data code, with unshift-on-space; only in the other bank the shift code and the
shift; in neither, dropped. The response's fields are given bit by bit. -/
def Obligations.EncTranslates : Prop :=
  (∀ (c : Byte) (s : State),
    ∃ (v : Rsp) (q : ShiftState),
      exec (.enc c) s =
        .next { s with codec := { s.codec with sendShift := q }, rspErr := false, rspData := v } ∧
      v.getLsbD 8 = decide (q = .figs) ∧ v.extractLsb' 9 7 = 0 ∧
      (∀ i, s.find s.codec.sel (bankOf s.codec.sendShift) c = some i →
        q = (if s.codec.usos = true ∧ c = 0x20 ∧ s.codec.sendShift = .figs then .ltrs else s.codec.sendShift) ∧
        v.extractLsb' 0 5 = i ∧ v.getLsbD 5 = true ∧ v.getLsbD 6 = false ∧ v.getLsbD 7 = false) ∧
      (s.find s.codec.sel (bankOf s.codec.sendShift) c = none →
        s.find s.codec.sel (bankOf (otherShift s.codec.sendShift)) c ≠ none →
        q = otherShift s.codec.sendShift ∧ v.extractLsb' 0 5 = shiftCode s.par q ∧ v.getLsbD 5 = true ∧
        v.getLsbD 6 = true ∧ v.getLsbD 7 = false) ∧
      (s.find s.codec.sel (bankOf s.codec.sendShift) c = none →
        s.find s.codec.sel (bankOf (otherShift s.codec.sendShift)) c = none →
        q = s.codec.sendShift ∧ v.extractLsb' 0 5 = 0 ∧ v.getLsbD 5 = false ∧ v.getLsbD 6 = false ∧
        v.getLsbD 7 = true)) ∧
  readsAs 8 (fun w => field w 8 12 = 0) (fun w => .enc (field w 0 8))

/-- R69: DEC. A control code sets the receive shift and gives no character; an unused slot gives none and leaves the
shift; any other slot gives its byte, with unshift-on-space. -/
def Obligations.DecTranslates : Prop :=
  (∀ (code : Code) (s : State),
    ∃ (v : Rsp) (q : ShiftState),
      exec (.dec code) s =
        .next { s with codec := { s.codec with recvShift := q }, rspErr := false, rspData := v } ∧
      v.getLsbD 10 = decide (q = .figs) ∧ v.extractLsb' 12 4 = 0 ∧
      (code = s.par.ltrsCode →
        q = .ltrs ∧ v.extractLsb' 0 8 = 0 ∧ v.getLsbD 8 = false ∧ v.getLsbD 9 = true ∧ v.getLsbD 11 = false) ∧
      (code ≠ s.par.ltrsCode → code = s.par.figsCode →
        q = .figs ∧ v.extractLsb' 0 8 = 0 ∧ v.getLsbD 8 = false ∧ v.getLsbD 9 = true ∧ v.getLsbD 11 = false) ∧
      (code ≠ s.par.ltrsCode → code ≠ s.par.figsCode →
        (s.tblRead s.codec.sel (bankOf s.codec.recvShift) code = s.par.unused →
          q = s.codec.recvShift ∧ v.extractLsb' 0 8 = 0 ∧ v.getLsbD 8 = false ∧ v.getLsbD 9 = false ∧
          v.getLsbD 11 = true) ∧
        (∀ c, s.tblRead s.codec.sel (bankOf s.codec.recvShift) code = c → c ≠ s.par.unused →
          q = (if s.codec.usos = true ∧ c = 0x20 ∧ s.codec.recvShift = .figs then .ltrs else s.codec.recvShift) ∧
          v.extractLsb' 0 8 = c ∧ v.getLsbD 8 = true ∧ v.getLsbD 9 = false ∧ v.getLsbD 11 = false))) ∧
  readsAs 9 (fun w => field w 5 15 = 0) (fun w => .dec (field w 0 5))

/-- 42_codec.md section 1: "the table bytes at their indices are never read by ENC or DEC": a different byte in a
control slot changes no response and no state of ENC or DEC but that byte itself. -/
def Obligations.ControlSlotsAreNeverUsed : Prop :=
  ∀ (s : State) (n : Fin 7) (k : Bank) (i : Code) (v : Byte), i = s.par.ltrsCode ∨ i = s.par.figsCode →
    (∀ c t, exec (.enc c) s = .next t → exec (.enc c) (s.tblWrite n k i v) = .next (t.tblWrite n k i v)) ∧
    (∀ c t, exec (.dec c) s = .next t → exec (.dec c) (s.tblWrite n k i v) = .next (t.tblWrite n k i v))

/-- R70: SETSH sets one shift state and always gives its code, CVALID and SHIFT for the send direction only. -/
def Obligations.SetshSetsOneShift : Prop :=
  (∀ (dir : Dir) (q : ShiftState) (s : State),
    ∃ (v : Rsp) (c : Codec),
      exec (.setsh dir q) s = .next { s with codec := c, rspErr := false, rspData := v } ∧
      c = (if dir = .send then { s.codec with sendShift := q } else { s.codec with recvShift := q }) ∧
      v.extractLsb' 0 5 = shiftCode s.par q ∧ v.getLsbD 5 = decide (dir = .send) ∧
      v.getLsbD 6 = decide (dir = .send) ∧ v.getLsbD 7 = false ∧ v.getLsbD 8 = decide (c.sendShift = .figs) ∧
      v.getLsbD 9 = false ∧ v.getLsbD 10 = decide (c.recvShift = .figs) ∧ v.extractLsb' 11 5 = 0) ∧
  readsAs 10 (fun w => field w 2 18 = 0)
    (fun w => .setsh (if field w 1 1 = 1 then .receive else .send) (if field w 0 1 = 1 then .figs else .ltrs))

/-- R71: SETUSOS sets the policy and leaves both shift states. -/
def Obligations.SetusosSetsPolicy : Prop :=
  (∀ (u : Bool) (s : State),
    exec (.setusos u) s =
      .next { s with codec := { s.codec with usos := u }, rspErr := false, rspData := if u then 1 else 0 }) ∧
  readsAs 11 (fun w => field w 1 19 = 0) (fun w => .setusos (decide (field w 0 1 = 1)))

/-- R72: SETSEL selects the table, 0 for a value above 6, and is never an error; the shift states are kept. -/
def Obligations.SetselSelectsTable : Prop :=
  (∀ (x : Byte) (s : State),
    ∃ n : Fin 7, n.val = (if x.toNat ≤ 6 then x.toNat else 0) ∧
      exec (.setsel x) s =
        .next { s with codec := { s.codec with sel := n }, rspErr := false, rspData := BitVec.ofNat 16 n.val }) ∧
  readsAs 12 (fun w => field w 8 12 = 0) (fun w => .setsel (field w 0 8))

/-- R73 (with R20): TBLWR writes the one byte at its slot's address, every other address reads as before, and the
byte is what the slot then reads; `tsel` 7 fails with `RSVD_SEL`. -/
def Obligations.TblwrWritesOneByte : Prop :=
  (∀ (tsel : BitVec 3) (k : Bank) (i : Code) (b : Byte) (s : State),
    (tsel = 7 → exec (.tblwr tsel k i b) s = .next { s with rspErr := true, rspData := 2 }) ∧
    (∀ n : Fin 7, n.val = tsel.toNat →
      ∃ m : Memory,
        exec (.tblwr tsel k i b) s =
          .next { s with tbl := m, rspErr := false, rspData := b.setWidth 16 } ∧
        (∀ a, a ≠ slotAddr n k i → m.read s.par a = s.tbl.read s.par a) ∧
        (s.tbl.wf s.par → m.read s.par (slotAddr n k i) = b))) ∧
  readsAs 13 (fun w => field w 17 3 = 0)
    (fun w => .tblwr (field w 14 3) (if field w 13 1 = 1 then .figures else .letters) (field w 8 5) (field w 0 8))

/-- R74: TBLRD answers the byte and changes nothing; `tsel` 7 fails with `RSVD_SEL`. -/
def Obligations.TblrdReadsWithoutEffect : Prop :=
  (∀ (tsel : BitVec 3) (k : Bank) (i : Code) (s : State),
    (tsel = 7 → exec (.tblrd tsel k i) s = .next { s with rspErr := true, rspData := 2 }) ∧
    (∀ n : Fin 7, n.val = tsel.toNat →
      exec (.tblrd tsel k i) s =
        .next { s with rspErr := false, rspData := (s.tbl.read s.par (slotAddr n k i)).setWidth 16 })) ∧
  readsAs 14 (fun w => field w 17 3 = 0 ∧ field w 0 8 = 0)
    (fun w => .tblrd (field w 14 3) (if field w 13 1 = 1 then .figures else .letters) (field w 8 5))

/-- 20_memory.md section 1: a step that is neither a reset step nor a TBLWR leaves every byte of the table RAM, read
at its address; and a TBLWR changes at most the byte at its own slot's address. -/
def Obligations.OnlyTblwrWritesTheTable : Prop :=
  ∀ s t : State, step s = .next t → s.nextInput.rst = false →
    ((∀ n k i b, ¬s.performs (.tblwr n k i b)) → ∀ a, t.tbl.read t.par a = s.tbl.read s.par a) ∧
    (∀ (tsel : BitVec 3) (k : Bank) (i : Code) (b : Byte), s.performs (.tblwr tsel k i b) →
      ∀ a, (∀ n : Fin 7, n.val = tsel.toNat → a ≠ slotAddr n k i) → t.tbl.read t.par a = s.tbl.read s.par a)

/-- 42_codec.md section 5, the source's round trip: with equal shift states, a character of the active table given to
ENC, and the codes ENC gives (one, or a shift code and then a data code) given to DEC in order, comes back, and the
shift states are equal again; for every content of the tables. -/
def Obligations.EncThenDecRoundTrips : Prop :=
  ∀ (s : State) (c : Byte), s.par.wf = true → s.codec.sendShift = s.codec.recvShift →
    (∃ k, s.find s.codec.sel k c ≠ none) →
    ∃ s₁, exec (.enc c) s = .next s₁ ∧ s₁.rspData.getLsbD 5 = true ∧
      ((s₁.rspData.getLsbD 6 = false ∧
          ∃ t, exec (.dec (responseCode s₁.rspData)) s₁ = .next t ∧ t.delivered c) ∨
       (s₁.rspData.getLsbD 6 = true ∧
          ∃ s₂ s₃ t, exec (.dec (responseCode s₁.rspData)) s₁ = .next s₂ ∧ s₂.rspData.getLsbD 9 = true ∧
            exec (.enc c) s₂ = .next s₃ ∧ s₃.rspData.getLsbD 5 = true ∧ s₃.rspData.getLsbD 6 = false ∧
            exec (.dec (responseCode s₃.rspData)) s₃ = .next t ∧ t.delivered c))

-- ---------------------------------------------------------------- relay sequencer

/-- R79: RELAY. Power on from `OFF` asserts the loop relay first, power off from `ENABLED` drops the AC relay first;
where the target state holds it changes nothing; while a sequence runs it fails with `RELAY_BUSY`. -/
def Obligations.RelayStartsOrRefuses : Prop :=
  (∀ (on : Bool) (s : State),
    (s.relay.state = .poweringOn ∨ s.relay.state = .poweringOff →
      exec (.relay on) s = .next { s with rspErr := true, rspData := 5 }) ∧
    (s.relay.state = .off ∨ s.relay.state = .enabled →
      ∃ r : Relay,
        exec (.relay on) s =
          .next { s with relay := r, rspErr := false, rspData := State.relayReg { s with relay := r } } ∧
        (on = true → s.relay.state = .off →
          r = { s.relay with loopRelay := true, state := .poweringOn, phase := 0, cnt := s.par.phaseTicks,
                             ledA := true, ledB := true }) ∧
        (on = false → s.relay.state = .enabled →
          r = { s.relay with acRelay := false, state := .poweringOff, phase := 0, cnt := s.par.phaseTicks,
                             ledA := true, ledB := true }) ∧
        (on = true → s.relay.state = .enabled → r = s.relay) ∧
        (on = false → s.relay.state = .off → r = s.relay))) ∧
  readsAs 15 (fun w => field w 1 19 = 0) (fun w => .relay (decide (field w 0 1 = 1)))

/-- 43_relay.md section 5, power on: the loop relay at once, the AC relay exactly 2 x ON_ITERS x PHASE_TICKS steps later,
the LEDs lit in even phases between, whatever the host does in those steps. -/
def Obligations.PowerOnTakesItsTime : Prop :=
  ∀ (s s₁ : State) (k : Nat), s.par.wf = true → s.relay.state = .off → s.relay.legal s.par →
    exec (.relay true) s = .next s₁ → k ≤ 2 * s.par.onIters * s.par.phaseTicks.toNat → s₁.quietRun [] k →
    ∃ t, runsTo k s₁ t ∧ t.relay.loopRelay = true ∧
      (k < 2 * s.par.onIters * s.par.phaseTicks.toNat →
        t.relay.state = .poweringOn ∧ t.relay.acRelay = false ∧
        t.relay.phase.toNat = k / s.par.phaseTicks.toNat ∧
        t.relay.ledA = decide (k / s.par.phaseTicks.toNat % 2 = 0) ∧
        t.relay.ledB = decide (k / s.par.phaseTicks.toNat % 2 = 0)) ∧
      (k = 2 * s.par.onIters * s.par.phaseTicks.toNat → s₁.quietRun [15] k →
        t.relay.state = .enabled ∧ t.relay.acRelay = true ∧ t.relay.ledA = false ∧ t.relay.ledB = false)

/-- 43_relay.md section 5, power off: the AC relay at once, the loop relay exactly 2 x OFF_ITERS x PHASE_TICKS steps
later, whatever the host does in those steps. -/
def Obligations.PowerOffTakesItsTime : Prop :=
  ∀ (s s₁ : State) (k : Nat), s.par.wf = true → s.relay.state = .enabled → s.relay.legal s.par →
    exec (.relay false) s = .next s₁ → k ≤ 2 * s.par.offIters * s.par.phaseTicks.toNat → s₁.quietRun [] k →
    ∃ t, runsTo k s₁ t ∧ t.relay.acRelay = false ∧
      (k < 2 * s.par.offIters * s.par.phaseTicks.toNat →
        t.relay.state = .poweringOff ∧ t.relay.loopRelay = true ∧
        t.relay.phase.toNat = k / s.par.phaseTicks.toNat ∧
        t.relay.ledA = decide (k / s.par.phaseTicks.toNat % 2 = 0) ∧
        t.relay.ledB = decide (k / s.par.phaseTicks.toNat % 2 = 0)) ∧
      (k = 2 * s.par.offIters * s.par.phaseTicks.toNat → s₁.quietRun [15] k →
        t.relay.state = .off ∧ t.relay.loopRelay = false ∧ t.relay.ledA = false ∧ t.relay.ledB = false)

/-- 43_relay.md section 1: "no rule of the framer or codec reads them": two states that differ in the relay sequencer
alone step to states that agree in everything but it, and in the response too unless the step's command is one that
shows the sequencer or is refused by it: RDREG of RELAY, which still succeeds, or RELAY. -/
def Obligations.RelayIsReadByNoOtherUnit : Prop :=
  ∀ (s t : State) (r : Relay), step s = .next t →
    ∃ t', step { s with relay := r } = .next t' ∧
      { t' with relay := t.relay, rspErr := t.rspErr, rspData := t.rspData } = t ∧
      ((∀ on, ¬s.performs (.relay on)) → t'.rspErr = t.rspErr) ∧
      ((∀ on, ¬s.performs (.relay on)) → ¬s.performs (.rdreg 4) → t'.rspData = t.rspData)

/-- 43_relay.md section 4, 60_exceptions.md section 3: `forced_in` and `mode_in` change no state and no output but the
response that shows them: two states whose next step differs in these inputs alone step to states that agree in
everything but the inputs themselves, and in `rsp_data` too unless the step's command is one that answers STATUS or the
RELAY register: RDREG of either, CLRST or RELAY. -/
def Obligations.ForcedAndModeAreOnlyRead : Prop :=
  ∀ (s t : State) (i : StepInput) (rest : List StepInput) (f m : Bool), s.inputs = i :: rest → step s = .next t →
    ∃ t', step { s with inputs := { i with forcedIn := f, modeIn := m } :: rest } = .next t' ∧
      { t' with rspData := t.rspData, inp := t.inp } = t ∧
      (¬s.performs (.rdreg 0) → ¬s.performs (.rdreg 4) → (∀ x, ¬s.performs (.clrst x)) →
        (∀ on, ¬s.performs (.relay on)) → t'.rspData = t.rspData)

-- ---------------------------------------------------------------- invariants

/-- R8: `div` is "1..65535 (never 0)". -/
def Obligations.StepKeepsDivisorNonzero : Prop :=
  ∀ s t : State, s.div ≠ 0 → step s = .next t → t.div ≠ 0

/-- The legal values of the receive machine (10_state.md section 3) are kept by every step: `rx_cnt` is 0 only in `IDLE`
and never above 98302, and `rx_bit` counts toward the width of the frame in progress. -/
def Obligations.StepKeepsReceiverLegal : Prop :=
  ∀ s t : State, s.div ≠ 0 → s.rx.legal → step s = .next t → t.rx.legal

/-- A break is a framing error, and neither outlives a high sample (41_framer.md section 2). -/
def Obligations.StepKeepsLineConditionLegal : Prop :=
  ∀ s t : State, s.line.legal s.rx.prev → step s = .next t → t.line.legal t.rx.prev

/-- The transmit machine and the level it drives (10_state.md section 4, 41_framer.md section 4): the line is at mark in
`IDLE` and in a stop bit, at space in a start bit and in a break, and at the addressed bit of the byte in a data
bit. -/
def Obligations.StepKeepsTransmitterLegal : Prop :=
  ∀ s t : State, s.div ≠ 0 → s.tx.legal → step s = .next t → t.tx.legal

/-- 43_relay.md sections 1 and 2. Each engine phase of the sequencer (R77, R78): at rest it does nothing, in a sequence it
counts down, begins the next phase, or ends the sequence. It leaves `OFF` and `ENABLED` by RELAY alone (R76). And the
output table: in every state of the sequencer the relays and LEDs are as the table says, so the AC relay is never on
without the loop relay. -/
def Obligations.StepKeepsRelayTable : Prop :=
  (∀ s : State,
    (s.relay.state = .off ∨ s.relay.state = .enabled → (enginePhase s).relay = s.relay) ∧
    (s.relay.state = .poweringOn ∨ s.relay.state = .poweringOff → s.relay.cnt ≠ 1 →
      (enginePhase s).relay = { s.relay with cnt := s.relay.cnt - 1 }) ∧
    ((s.relay.state = .poweringOn ∧ s.relay.phase.toNat + 1 < 2 * s.par.onIters) ∨
        (s.relay.state = .poweringOff ∧ s.relay.phase.toNat + 1 < 2 * s.par.offIters) → s.relay.cnt = 1 →
      (enginePhase s).relay =
        { s.relay with phase := s.relay.phase + 1, cnt := s.par.phaseTicks,
                       ledA := decide ((s.relay.phase.toNat + 1) % 2 = 0),
                       ledB := decide ((s.relay.phase.toNat + 1) % 2 = 0) }) ∧
    (s.relay.state = .poweringOn → 2 * s.par.onIters ≤ s.relay.phase.toNat + 1 → s.relay.cnt = 1 →
      (enginePhase s).relay =
        { s.relay with acRelay := true, state := .enabled, phase := 0, cnt := 0, ledA := false, ledB := false }) ∧
    (s.relay.state = .poweringOff → 2 * s.par.offIters ≤ s.relay.phase.toNat + 1 → s.relay.cnt = 1 →
      (enginePhase s).relay =
        { s.relay with loopRelay := false, state := .off, phase := 0, cnt := 0, ledA := false, ledB := false })) ∧
  (∀ s t : State, step s = .next t → s.nextInput.rst = false →
    (s.relay.state = .off → t.relay = s.relay ∨ s.performs (.relay true)) ∧
    (s.relay.state = .enabled → t.relay = s.relay ∨ s.performs (.relay false))) ∧
  (∀ s t : State, s.relay.legal s.par → step s = .next t →
    t.relay.legal t.par ∧ (t.relay.acRelay = true → t.relay.loopRelay = true))

/-- The table RAM keeps its canonical form: 448 bytes, addresses rising, none listed at its reset value. The form is
the model's (log entry 3); that no byte outside the 448 is ever written is 20_memory.md section 1. -/
def Obligations.StepKeepsTableCanonical : Prop :=
  ∀ s t : State, s.tbl.wf s.par → step s = .next t → t.tbl.wf t.par

/-- The reset state is legal in every unit, for every accepted configuration. -/
def Obligations.ResetIsLegal : Prop := State.reset.legal ∧ ∀ p : Params, p.wf = true → (State.resetWith p).legal
end

