-- ==== Sys2Proof/Laws/State.lean ====
section
/-! SUPPORT. One lemma per field per update for the operations on a whole state: answering, failing, recording an
event, writing the table RAM, and beginning a step. -/

namespace Sys2Proof.Machine

@[simp] theorem respond_par (s : State) (v : Rsp) : (s.respond v).par = s.par := rfl
@[simp] theorem respond_div (s : State) (v : Rsp) : (s.respond v).div = s.div := rfl
@[simp] theorem respond_rxWCfg (s : State) (v : Rsp) : (s.respond v).rxWCfg = s.rxWCfg := rfl
@[simp] theorem respond_txWCfg (s : State) (v : Rsp) : (s.respond v).txWCfg = s.txWCfg := rfl
@[simp] theorem respond_rx (s : State) (v : Rsp) : (s.respond v).rx = s.rx := rfl
@[simp] theorem respond_line (s : State) (v : Rsp) : (s.respond v).line = s.line := rfl
@[simp] theorem respond_tx (s : State) (v : Rsp) : (s.respond v).tx = s.tx := rfl
@[simp] theorem respond_sticky (s : State) (v : Rsp) : (s.respond v).sticky = s.sticky := rfl
@[simp] theorem respond_hbrPrev (s : State) (v : Rsp) : (s.respond v).hbrPrev = s.hbrPrev := rfl
@[simp] theorem respond_codec (s : State) (v : Rsp) : (s.respond v).codec = s.codec := rfl
@[simp] theorem respond_tbl (s : State) (v : Rsp) : (s.respond v).tbl = s.tbl := rfl
@[simp] theorem respond_relay (s : State) (v : Rsp) : (s.respond v).relay = s.relay := rfl
@[simp] theorem respond_rspErr (s : State) (v : Rsp) : (s.respond v).rspErr = false := rfl
@[simp] theorem respond_rspData (s : State) (v : Rsp) : (s.respond v).rspData = v := rfl
@[simp] theorem respond_inp (s : State) (v : Rsp) : (s.respond v).inp = s.inp := rfl
@[simp] theorem respond_ev (s : State) (v : Rsp) : (s.respond v).ev = s.ev := rfl
@[simp] theorem respond_inputs (s : State) (v : Rsp) : (s.respond v).inputs = s.inputs := rfl
@[simp] theorem respond_stepNo (s : State) (v : Rsp) : (s.respond v).stepNo = s.stepNo := rfl

@[simp] theorem raise_par (s : State) (e : CmdError) : (s.raise e).par = s.par := rfl
@[simp] theorem raise_div (s : State) (e : CmdError) : (s.raise e).div = s.div := rfl
@[simp] theorem raise_rxWCfg (s : State) (e : CmdError) : (s.raise e).rxWCfg = s.rxWCfg := rfl
@[simp] theorem raise_txWCfg (s : State) (e : CmdError) : (s.raise e).txWCfg = s.txWCfg := rfl
@[simp] theorem raise_rx (s : State) (e : CmdError) : (s.raise e).rx = s.rx := rfl
@[simp] theorem raise_line (s : State) (e : CmdError) : (s.raise e).line = s.line := rfl
@[simp] theorem raise_tx (s : State) (e : CmdError) : (s.raise e).tx = s.tx := rfl
@[simp] theorem raise_sticky (s : State) (e : CmdError) : (s.raise e).sticky = s.sticky := rfl
@[simp] theorem raise_hbrPrev (s : State) (e : CmdError) : (s.raise e).hbrPrev = s.hbrPrev := rfl
@[simp] theorem raise_codec (s : State) (e : CmdError) : (s.raise e).codec = s.codec := rfl
@[simp] theorem raise_tbl (s : State) (e : CmdError) : (s.raise e).tbl = s.tbl := rfl
@[simp] theorem raise_relay (s : State) (e : CmdError) : (s.raise e).relay = s.relay := rfl
@[simp] theorem raise_rspErr (s : State) (e : CmdError) : (s.raise e).rspErr = true := rfl
@[simp] theorem raise_rspData (s : State) (e : CmdError) : (s.raise e).rspData = e.code := rfl
@[simp] theorem raise_inp (s : State) (e : CmdError) : (s.raise e).inp = s.inp := rfl
@[simp] theorem raise_ev (s : State) (e : CmdError) : (s.raise e).ev = s.ev := rfl
@[simp] theorem raise_inputs (s : State) (e : CmdError) : (s.raise e).inputs = s.inputs := rfl
@[simp] theorem raise_stepNo (s : State) (e : CmdError) : (s.raise e).stepNo = s.stepNo := rfl

@[simp] theorem setNow_par (s : State) (b : StickyBit) : (s.setNow b).par = s.par := rfl
@[simp] theorem setNow_div (s : State) (b : StickyBit) : (s.setNow b).div = s.div := rfl
@[simp] theorem setNow_rxWCfg (s : State) (b : StickyBit) : (s.setNow b).rxWCfg = s.rxWCfg := rfl
@[simp] theorem setNow_txWCfg (s : State) (b : StickyBit) : (s.setNow b).txWCfg = s.txWCfg := rfl
@[simp] theorem setNow_rx (s : State) (b : StickyBit) : (s.setNow b).rx = s.rx := rfl
@[simp] theorem setNow_line (s : State) (b : StickyBit) : (s.setNow b).line = s.line := rfl
@[simp] theorem setNow_tx (s : State) (b : StickyBit) : (s.setNow b).tx = s.tx := rfl
@[simp] theorem setNow_sticky (s : State) (b : StickyBit) : (s.setNow b).sticky = s.sticky.set b := rfl
@[simp] theorem setNow_hbrPrev (s : State) (b : StickyBit) : (s.setNow b).hbrPrev = s.hbrPrev := rfl
@[simp] theorem setNow_codec (s : State) (b : StickyBit) : (s.setNow b).codec = s.codec := rfl
@[simp] theorem setNow_tbl (s : State) (b : StickyBit) : (s.setNow b).tbl = s.tbl := rfl
@[simp] theorem setNow_relay (s : State) (b : StickyBit) : (s.setNow b).relay = s.relay := rfl
@[simp] theorem setNow_rspErr (s : State) (b : StickyBit) : (s.setNow b).rspErr = s.rspErr := rfl
@[simp] theorem setNow_rspData (s : State) (b : StickyBit) : (s.setNow b).rspData = s.rspData := rfl
@[simp] theorem setNow_inp (s : State) (b : StickyBit) : (s.setNow b).inp = s.inp := rfl
@[simp] theorem setNow_ev (s : State) (b : StickyBit) : (s.setNow b).ev = s.ev.set b := rfl
@[simp] theorem setNow_inputs (s : State) (b : StickyBit) : (s.setNow b).inputs = s.inputs := rfl
@[simp] theorem setNow_stepNo (s : State) (b : StickyBit) : (s.setNow b).stepNo = s.stepNo := rfl

@[simp] theorem setNowIf_par (s : State) (c : Bool) (b : StickyBit) : (s.setNowIf c b).par = s.par := by cases c <;> rfl
@[simp] theorem setNowIf_div (s : State) (c : Bool) (b : StickyBit) : (s.setNowIf c b).div = s.div := by cases c <;> rfl
@[simp] theorem setNowIf_rxWCfg (s : State) (c : Bool) (b : StickyBit) : (s.setNowIf c b).rxWCfg = s.rxWCfg := by cases c <;> rfl
@[simp] theorem setNowIf_txWCfg (s : State) (c : Bool) (b : StickyBit) : (s.setNowIf c b).txWCfg = s.txWCfg := by cases c <;> rfl
@[simp] theorem setNowIf_rx (s : State) (c : Bool) (b : StickyBit) : (s.setNowIf c b).rx = s.rx := by cases c <;> rfl
@[simp] theorem setNowIf_line (s : State) (c : Bool) (b : StickyBit) : (s.setNowIf c b).line = s.line := by cases c <;> rfl
@[simp] theorem setNowIf_tx (s : State) (c : Bool) (b : StickyBit) : (s.setNowIf c b).tx = s.tx := by cases c <;> rfl
@[simp] theorem setNowIf_sticky (s : State) (c : Bool) (b : StickyBit) : (s.setNowIf c b).sticky = if c then s.sticky.set b else s.sticky := by cases c <;> rfl
@[simp] theorem setNowIf_hbrPrev (s : State) (c : Bool) (b : StickyBit) : (s.setNowIf c b).hbrPrev = s.hbrPrev := by cases c <;> rfl
@[simp] theorem setNowIf_codec (s : State) (c : Bool) (b : StickyBit) : (s.setNowIf c b).codec = s.codec := by cases c <;> rfl
@[simp] theorem setNowIf_tbl (s : State) (c : Bool) (b : StickyBit) : (s.setNowIf c b).tbl = s.tbl := by cases c <;> rfl
@[simp] theorem setNowIf_relay (s : State) (c : Bool) (b : StickyBit) : (s.setNowIf c b).relay = s.relay := by cases c <;> rfl
@[simp] theorem setNowIf_rspErr (s : State) (c : Bool) (b : StickyBit) : (s.setNowIf c b).rspErr = s.rspErr := by cases c <;> rfl
@[simp] theorem setNowIf_rspData (s : State) (c : Bool) (b : StickyBit) : (s.setNowIf c b).rspData = s.rspData := by cases c <;> rfl
@[simp] theorem setNowIf_inp (s : State) (c : Bool) (b : StickyBit) : (s.setNowIf c b).inp = s.inp := by cases c <;> rfl
@[simp] theorem setNowIf_ev (s : State) (c : Bool) (b : StickyBit) : (s.setNowIf c b).ev = if c then s.ev.set b else s.ev := by cases c <;> rfl
@[simp] theorem setNowIf_inputs (s : State) (c : Bool) (b : StickyBit) : (s.setNowIf c b).inputs = s.inputs := by cases c <;> rfl
@[simp] theorem setNowIf_stepNo (s : State) (c : Bool) (b : StickyBit) : (s.setNowIf c b).stepNo = s.stepNo := by cases c <;> rfl

@[simp] theorem tblWrite_par (s : State) (t : Fin 7) (k : Bank) (i : Code) (v : Byte) : (s.tblWrite t k i v).par = s.par := rfl
@[simp] theorem tblWrite_div (s : State) (t : Fin 7) (k : Bank) (i : Code) (v : Byte) : (s.tblWrite t k i v).div = s.div := rfl
@[simp] theorem tblWrite_rxWCfg (s : State) (t : Fin 7) (k : Bank) (i : Code) (v : Byte) : (s.tblWrite t k i v).rxWCfg = s.rxWCfg := rfl
@[simp] theorem tblWrite_txWCfg (s : State) (t : Fin 7) (k : Bank) (i : Code) (v : Byte) : (s.tblWrite t k i v).txWCfg = s.txWCfg := rfl
@[simp] theorem tblWrite_rx (s : State) (t : Fin 7) (k : Bank) (i : Code) (v : Byte) : (s.tblWrite t k i v).rx = s.rx := rfl
@[simp] theorem tblWrite_line (s : State) (t : Fin 7) (k : Bank) (i : Code) (v : Byte) : (s.tblWrite t k i v).line = s.line := rfl
@[simp] theorem tblWrite_tx (s : State) (t : Fin 7) (k : Bank) (i : Code) (v : Byte) : (s.tblWrite t k i v).tx = s.tx := rfl
@[simp] theorem tblWrite_sticky (s : State) (t : Fin 7) (k : Bank) (i : Code) (v : Byte) : (s.tblWrite t k i v).sticky = s.sticky := rfl
@[simp] theorem tblWrite_hbrPrev (s : State) (t : Fin 7) (k : Bank) (i : Code) (v : Byte) : (s.tblWrite t k i v).hbrPrev = s.hbrPrev := rfl
@[simp] theorem tblWrite_codec (s : State) (t : Fin 7) (k : Bank) (i : Code) (v : Byte) : (s.tblWrite t k i v).codec = s.codec := rfl
@[simp] theorem tblWrite_tbl (s : State) (t : Fin 7) (k : Bank) (i : Code) (v : Byte) : (s.tblWrite t k i v).tbl = s.tbl.write s.par (slotAddr t k i) v := rfl
@[simp] theorem tblWrite_relay (s : State) (t : Fin 7) (k : Bank) (i : Code) (v : Byte) : (s.tblWrite t k i v).relay = s.relay := rfl
@[simp] theorem tblWrite_rspErr (s : State) (t : Fin 7) (k : Bank) (i : Code) (v : Byte) : (s.tblWrite t k i v).rspErr = s.rspErr := rfl
@[simp] theorem tblWrite_rspData (s : State) (t : Fin 7) (k : Bank) (i : Code) (v : Byte) : (s.tblWrite t k i v).rspData = s.rspData := rfl
@[simp] theorem tblWrite_inp (s : State) (t : Fin 7) (k : Bank) (i : Code) (v : Byte) : (s.tblWrite t k i v).inp = s.inp := rfl
@[simp] theorem tblWrite_ev (s : State) (t : Fin 7) (k : Bank) (i : Code) (v : Byte) : (s.tblWrite t k i v).ev = s.ev := rfl
@[simp] theorem tblWrite_inputs (s : State) (t : Fin 7) (k : Bank) (i : Code) (v : Byte) : (s.tblWrite t k i v).inputs = s.inputs := rfl
@[simp] theorem tblWrite_stepNo (s : State) (t : Fin 7) (k : Bank) (i : Code) (v : Byte) : (s.tblWrite t k i v).stepNo = s.stepNo := rfl

@[simp] theorem takeInput_par (s : State) : (s.takeInput).par = s.par := rfl
@[simp] theorem takeInput_div (s : State) : (s.takeInput).div = s.div := rfl
@[simp] theorem takeInput_rxWCfg (s : State) : (s.takeInput).rxWCfg = s.rxWCfg := rfl
@[simp] theorem takeInput_txWCfg (s : State) : (s.takeInput).txWCfg = s.txWCfg := rfl
@[simp] theorem takeInput_rx (s : State) : (s.takeInput).rx = s.rx := rfl
@[simp] theorem takeInput_line (s : State) : (s.takeInput).line = s.line := rfl
@[simp] theorem takeInput_tx (s : State) : (s.takeInput).tx = s.tx := rfl
@[simp] theorem takeInput_sticky (s : State) : (s.takeInput).sticky = s.sticky := rfl
@[simp] theorem takeInput_hbrPrev (s : State) : (s.takeInput).hbrPrev = s.hbrPrev := rfl
@[simp] theorem takeInput_codec (s : State) : (s.takeInput).codec = s.codec := rfl
@[simp] theorem takeInput_tbl (s : State) : (s.takeInput).tbl = s.tbl := rfl
@[simp] theorem takeInput_relay (s : State) : (s.takeInput).relay = s.relay := rfl
@[simp] theorem takeInput_rspErr (s : State) : (s.takeInput).rspErr = s.rspErr := rfl
@[simp] theorem takeInput_rspData (s : State) : (s.takeInput).rspData = s.rspData := rfl
@[simp] theorem takeInput_inp (s : State) : (s.takeInput).inp = s.nextInput := rfl
@[simp] theorem takeInput_ev (s : State) : (s.takeInput).ev = Sticky.none := rfl
@[simp] theorem takeInput_inputs (s : State) : (s.takeInput).inputs = s.inputs.tail := rfl
@[simp] theorem takeInput_stepNo (s : State) : (s.takeInput).stepNo = s.stepNo + 1 := rfl

@[simp] theorem resetStep_par (s : State) : (s.resetStep).par = s.par := rfl
@[simp] theorem resetStep_div (s : State) : (s.resetStep).div = s.par.divDefault := rfl
@[simp] theorem resetStep_rxWCfg (s : State) : (s.resetStep).rxWCfg = .five := rfl
@[simp] theorem resetStep_txWCfg (s : State) : (s.resetStep).txWCfg = .five := rfl
@[simp] theorem resetStep_rx (s : State) : (s.resetStep).rx = (State.resetWith s.par).rx := rfl
@[simp] theorem resetStep_line (s : State) : (s.resetStep).line = (State.resetWith s.par).line := rfl
@[simp] theorem resetStep_tx (s : State) : (s.resetStep).tx = (State.resetWith s.par).tx := rfl
@[simp] theorem resetStep_sticky (s : State) : (s.resetStep).sticky = Sticky.none := rfl
@[simp] theorem resetStep_hbrPrev (s : State) : (s.resetStep).hbrPrev = true := rfl
@[simp] theorem resetStep_codec (s : State) : (s.resetStep).codec = (State.resetWith s.par).codec := rfl
@[simp] theorem resetStep_tbl (s : State) : (s.resetStep).tbl = [] := rfl
@[simp] theorem resetStep_relay (s : State) : (s.resetStep).relay = (State.resetWith s.par).relay := rfl
@[simp] theorem resetStep_rspErr (s : State) : (s.resetStep).rspErr = false := rfl
@[simp] theorem resetStep_rspData (s : State) : (s.resetStep).rspData = 0 := rfl
@[simp] theorem resetStep_inp (s : State) : (s.resetStep).inp = s.inp := rfl
@[simp] theorem resetStep_ev (s : State) : (s.resetStep).ev = Sticky.none := rfl
@[simp] theorem resetStep_inputs (s : State) : (s.resetStep).inputs = s.inputs := rfl
@[simp] theorem resetStep_stepNo (s : State) : (s.resetStep).stepNo = s.stepNo := rfl

/-- The inputs written down for the next step are the ones it reads. -/
@[simp] theorem nextInput_cons (s : State) (i : StepInput) (r : List StepInput) (h : s.inputs = i :: r) :
    s.nextInput = i := by simp [State.nextInput, h]

end Sys2Proof.Machine
end

