-- ==== Sys2Proof/Laws/Engine.lean ====
section
/-! SUPPORT. What the engine phase does to each field: one lemma per field per unit (R37), then one per field for the
whole phase. -/

namespace Sys2Proof.Machine

/-- Everything unit 1 does (R46 to R49): the receive machine steps; a byte over an untaken one is an overrun, a low
stop bit a framing error. -/
theorem engineRx_eq (s : State) :
    engineRx s =
      { s with
        rx := rxTick s.div s.rxWCfg s.inp.lineIn s.rx
        line := if rxOutcome s.inp.lineIn s.rx = .framingError then { s.line with fe := true } else s.line
        sticky := if rxOutcome s.inp.lineIn s.rx = .framingError then s.sticky.set .feev
          else if rxOutcome s.inp.lineIn s.rx = .byteReady ∧ s.rx.ready = true then s.sticky.set .ovr else s.sticky
        ev := if rxOutcome s.inp.lineIn s.rx = .framingError then s.ev.set .feev
          else if rxOutcome s.inp.lineIn s.rx = .byteReady ∧ s.rx.ready = true then s.ev.set .ovr else s.ev } := by
  unfold engineRx
  cases rxOutcome s.inp.lineIn s.rx <;> cases s.rx.ready <;> rfl

@[simp] theorem engineRx_par (s : State) : (engineRx s).par = s.par := by rw [engineRx_eq]
@[simp] theorem engineRx_div (s : State) : (engineRx s).div = s.div := by rw [engineRx_eq]
@[simp] theorem engineRx_rxWCfg (s : State) : (engineRx s).rxWCfg = s.rxWCfg := by rw [engineRx_eq]
@[simp] theorem engineRx_txWCfg (s : State) : (engineRx s).txWCfg = s.txWCfg := by rw [engineRx_eq]
@[simp] theorem engineRx_rx (s : State) : (engineRx s).rx = rxTick s.div s.rxWCfg s.inp.lineIn s.rx := by rw [engineRx_eq]
@[simp] theorem engineRx_line (s : State) : (engineRx s).line = if rxOutcome s.inp.lineIn s.rx = .framingError then { s.line with fe := true } else s.line := by rw [engineRx_eq]
@[simp] theorem engineRx_tx (s : State) : (engineRx s).tx = s.tx := by rw [engineRx_eq]
@[simp] theorem engineRx_hbrPrev (s : State) : (engineRx s).hbrPrev = s.hbrPrev := by rw [engineRx_eq]
@[simp] theorem engineRx_codec (s : State) : (engineRx s).codec = s.codec := by rw [engineRx_eq]
@[simp] theorem engineRx_tbl (s : State) : (engineRx s).tbl = s.tbl := by rw [engineRx_eq]
@[simp] theorem engineRx_relay (s : State) : (engineRx s).relay = s.relay := by rw [engineRx_eq]
@[simp] theorem engineRx_rspErr (s : State) : (engineRx s).rspErr = s.rspErr := by rw [engineRx_eq]
@[simp] theorem engineRx_rspData (s : State) : (engineRx s).rspData = s.rspData := by rw [engineRx_eq]
@[simp] theorem engineRx_inp (s : State) : (engineRx s).inp = s.inp := by rw [engineRx_eq]
@[simp] theorem engineRx_inputs (s : State) : (engineRx s).inputs = s.inputs := by rw [engineRx_eq]
@[simp] theorem engineRx_stepNo (s : State) : (engineRx s).stepNo = s.stepNo := by rw [engineRx_eq]

@[simp] theorem engineLine_par (s : State) : (engineLine s).par = s.par := by simp [engineLine]
@[simp] theorem engineLine_div (s : State) : (engineLine s).div = s.div := by simp [engineLine]
@[simp] theorem engineLine_rxWCfg (s : State) : (engineLine s).rxWCfg = s.rxWCfg := by simp [engineLine]
@[simp] theorem engineLine_txWCfg (s : State) : (engineLine s).txWCfg = s.txWCfg := by simp [engineLine]
@[simp] theorem engineLine_rx (s : State) : (engineLine s).rx = s.rx := by simp [engineLine]
@[simp] theorem engineLine_line (s : State) : (engineLine s).line = lineTick (frameSteps s.div s.rx.n) s.inp.lineIn s.line := by simp [engineLine]
@[simp] theorem engineLine_tx (s : State) : (engineLine s).tx = s.tx := by simp [engineLine]
@[simp] theorem engineLine_sticky (s : State) : (engineLine s).sticky = if s.inp.lineIn && s.line.fe then s.sticky.set .fefall else s.sticky := by simp [engineLine]
@[simp] theorem engineLine_hbrPrev (s : State) : (engineLine s).hbrPrev = s.hbrPrev := by simp [engineLine]
@[simp] theorem engineLine_codec (s : State) : (engineLine s).codec = s.codec := by simp [engineLine]
@[simp] theorem engineLine_tbl (s : State) : (engineLine s).tbl = s.tbl := by simp [engineLine]
@[simp] theorem engineLine_relay (s : State) : (engineLine s).relay = s.relay := by simp [engineLine]
@[simp] theorem engineLine_rspErr (s : State) : (engineLine s).rspErr = s.rspErr := by simp [engineLine]
@[simp] theorem engineLine_rspData (s : State) : (engineLine s).rspData = s.rspData := by simp [engineLine]
@[simp] theorem engineLine_inp (s : State) : (engineLine s).inp = s.inp := by simp [engineLine]
@[simp] theorem engineLine_ev (s : State) : (engineLine s).ev = if s.inp.lineIn && s.line.fe then s.ev.set .fefall else s.ev := by simp [engineLine]
@[simp] theorem engineLine_inputs (s : State) : (engineLine s).inputs = s.inputs := by simp [engineLine]
@[simp] theorem engineLine_stepNo (s : State) : (engineLine s).stepNo = s.stepNo := by simp [engineLine]

@[simp] theorem engineHistory_par (s : State) : (engineHistory s).par = s.par := rfl
@[simp] theorem engineHistory_div (s : State) : (engineHistory s).div = s.div := rfl
@[simp] theorem engineHistory_rxWCfg (s : State) : (engineHistory s).rxWCfg = s.rxWCfg := rfl
@[simp] theorem engineHistory_txWCfg (s : State) : (engineHistory s).txWCfg = s.txWCfg := rfl
@[simp] theorem engineHistory_rx (s : State) : (engineHistory s).rx = { s.rx with prev := s.inp.lineIn } := rfl
@[simp] theorem engineHistory_line (s : State) : (engineHistory s).line = s.line := rfl
@[simp] theorem engineHistory_tx (s : State) : (engineHistory s).tx = s.tx := rfl
@[simp] theorem engineHistory_sticky (s : State) : (engineHistory s).sticky = s.sticky := rfl
@[simp] theorem engineHistory_hbrPrev (s : State) : (engineHistory s).hbrPrev = s.hbrPrev := rfl
@[simp] theorem engineHistory_codec (s : State) : (engineHistory s).codec = s.codec := rfl
@[simp] theorem engineHistory_tbl (s : State) : (engineHistory s).tbl = s.tbl := rfl
@[simp] theorem engineHistory_relay (s : State) : (engineHistory s).relay = s.relay := rfl
@[simp] theorem engineHistory_rspErr (s : State) : (engineHistory s).rspErr = s.rspErr := rfl
@[simp] theorem engineHistory_rspData (s : State) : (engineHistory s).rspData = s.rspData := rfl
@[simp] theorem engineHistory_inp (s : State) : (engineHistory s).inp = s.inp := rfl
@[simp] theorem engineHistory_ev (s : State) : (engineHistory s).ev = s.ev := rfl
@[simp] theorem engineHistory_inputs (s : State) : (engineHistory s).inputs = s.inputs := rfl
@[simp] theorem engineHistory_stepNo (s : State) : (engineHistory s).stepNo = s.stepNo := rfl

@[simp] theorem engineHostBreak_par (s : State) : (engineHostBreak s).par = s.par := by simp [engineHostBreak]
@[simp] theorem engineHostBreak_div (s : State) : (engineHostBreak s).div = s.div := by simp [engineHostBreak]
@[simp] theorem engineHostBreak_rxWCfg (s : State) : (engineHostBreak s).rxWCfg = s.rxWCfg := by simp [engineHostBreak]
@[simp] theorem engineHostBreak_txWCfg (s : State) : (engineHostBreak s).txWCfg = s.txWCfg := by simp [engineHostBreak]
@[simp] theorem engineHostBreak_rx (s : State) : (engineHostBreak s).rx = s.rx := by simp [engineHostBreak]
@[simp] theorem engineHostBreak_line (s : State) : (engineHostBreak s).line = s.line := by simp [engineHostBreak]
@[simp] theorem engineHostBreak_tx (s : State) : (engineHostBreak s).tx = s.tx := by simp [engineHostBreak]
@[simp] theorem engineHostBreak_sticky (s : State) : (engineHostBreak s).sticky = if !s.hbrPrev && s.inp.hostBrkIn then s.sticky.set .hbr else s.sticky := by simp [engineHostBreak]
@[simp] theorem engineHostBreak_hbrPrev (s : State) : (engineHostBreak s).hbrPrev = s.inp.hostBrkIn := by simp [engineHostBreak]
@[simp] theorem engineHostBreak_codec (s : State) : (engineHostBreak s).codec = s.codec := by simp [engineHostBreak]
@[simp] theorem engineHostBreak_tbl (s : State) : (engineHostBreak s).tbl = s.tbl := by simp [engineHostBreak]
@[simp] theorem engineHostBreak_relay (s : State) : (engineHostBreak s).relay = s.relay := by simp [engineHostBreak]
@[simp] theorem engineHostBreak_rspErr (s : State) : (engineHostBreak s).rspErr = s.rspErr := by simp [engineHostBreak]
@[simp] theorem engineHostBreak_rspData (s : State) : (engineHostBreak s).rspData = s.rspData := by simp [engineHostBreak]
@[simp] theorem engineHostBreak_inp (s : State) : (engineHostBreak s).inp = s.inp := by simp [engineHostBreak]
@[simp] theorem engineHostBreak_ev (s : State) : (engineHostBreak s).ev = if !s.hbrPrev && s.inp.hostBrkIn then s.ev.set .hbr else s.ev := by simp [engineHostBreak]
@[simp] theorem engineHostBreak_inputs (s : State) : (engineHostBreak s).inputs = s.inputs := by simp [engineHostBreak]
@[simp] theorem engineHostBreak_stepNo (s : State) : (engineHostBreak s).stepNo = s.stepNo := by simp [engineHostBreak]

@[simp] theorem engineTx_par (s : State) : (engineTx s).par = s.par := rfl
@[simp] theorem engineTx_div (s : State) : (engineTx s).div = s.div := rfl
@[simp] theorem engineTx_rxWCfg (s : State) : (engineTx s).rxWCfg = s.rxWCfg := rfl
@[simp] theorem engineTx_txWCfg (s : State) : (engineTx s).txWCfg = s.txWCfg := rfl
@[simp] theorem engineTx_rx (s : State) : (engineTx s).rx = s.rx := rfl
@[simp] theorem engineTx_line (s : State) : (engineTx s).line = s.line := rfl
@[simp] theorem engineTx_tx (s : State) : (engineTx s).tx = txTick s.div s.tx := rfl
@[simp] theorem engineTx_sticky (s : State) : (engineTx s).sticky = s.sticky := rfl
@[simp] theorem engineTx_hbrPrev (s : State) : (engineTx s).hbrPrev = s.hbrPrev := rfl
@[simp] theorem engineTx_codec (s : State) : (engineTx s).codec = s.codec := rfl
@[simp] theorem engineTx_tbl (s : State) : (engineTx s).tbl = s.tbl := rfl
@[simp] theorem engineTx_relay (s : State) : (engineTx s).relay = s.relay := rfl
@[simp] theorem engineTx_rspErr (s : State) : (engineTx s).rspErr = s.rspErr := rfl
@[simp] theorem engineTx_rspData (s : State) : (engineTx s).rspData = s.rspData := rfl
@[simp] theorem engineTx_inp (s : State) : (engineTx s).inp = s.inp := rfl
@[simp] theorem engineTx_ev (s : State) : (engineTx s).ev = s.ev := rfl
@[simp] theorem engineTx_inputs (s : State) : (engineTx s).inputs = s.inputs := rfl
@[simp] theorem engineTx_stepNo (s : State) : (engineTx s).stepNo = s.stepNo := rfl

@[simp] theorem engineRelay_par (s : State) : (engineRelay s).par = s.par := rfl
@[simp] theorem engineRelay_div (s : State) : (engineRelay s).div = s.div := rfl
@[simp] theorem engineRelay_rxWCfg (s : State) : (engineRelay s).rxWCfg = s.rxWCfg := rfl
@[simp] theorem engineRelay_txWCfg (s : State) : (engineRelay s).txWCfg = s.txWCfg := rfl
@[simp] theorem engineRelay_rx (s : State) : (engineRelay s).rx = s.rx := rfl
@[simp] theorem engineRelay_line (s : State) : (engineRelay s).line = s.line := rfl
@[simp] theorem engineRelay_tx (s : State) : (engineRelay s).tx = s.tx := rfl
@[simp] theorem engineRelay_sticky (s : State) : (engineRelay s).sticky = s.sticky := rfl
@[simp] theorem engineRelay_hbrPrev (s : State) : (engineRelay s).hbrPrev = s.hbrPrev := rfl
@[simp] theorem engineRelay_codec (s : State) : (engineRelay s).codec = s.codec := rfl
@[simp] theorem engineRelay_tbl (s : State) : (engineRelay s).tbl = s.tbl := rfl
@[simp] theorem engineRelay_relay (s : State) : (engineRelay s).relay = relayTick s.par s.relay := rfl
@[simp] theorem engineRelay_rspErr (s : State) : (engineRelay s).rspErr = s.rspErr := rfl
@[simp] theorem engineRelay_rspData (s : State) : (engineRelay s).rspData = s.rspData := rfl
@[simp] theorem engineRelay_inp (s : State) : (engineRelay s).inp = s.inp := rfl
@[simp] theorem engineRelay_ev (s : State) : (engineRelay s).ev = s.ev := rfl
@[simp] theorem engineRelay_inputs (s : State) : (engineRelay s).inputs = s.inputs := rfl
@[simp] theorem engineRelay_stepNo (s : State) : (engineRelay s).stepNo = s.stepNo := rfl

@[simp] theorem enginePhase_par (s : State) : (enginePhase s).par = s.par := by simp [enginePhase]
@[simp] theorem enginePhase_div (s : State) : (enginePhase s).div = s.div := by simp [enginePhase]
@[simp] theorem enginePhase_rxWCfg (s : State) : (enginePhase s).rxWCfg = s.rxWCfg := by simp [enginePhase]
@[simp] theorem enginePhase_txWCfg (s : State) : (enginePhase s).txWCfg = s.txWCfg := by simp [enginePhase]
@[simp] theorem enginePhase_rx (s : State) : (enginePhase s).rx = { rxTick s.div s.rxWCfg s.inp.lineIn s.rx with prev := s.inp.lineIn } := by simp [enginePhase]
@[simp] theorem enginePhase_line (s : State) : (enginePhase s).line = lineTick (frameSteps s.div (rxTick s.div s.rxWCfg s.inp.lineIn s.rx).n) s.inp.lineIn (engineRx s).line := by simp [enginePhase]
@[simp] theorem enginePhase_tx (s : State) : (enginePhase s).tx = txTick s.div s.tx := by simp [enginePhase]
@[simp] theorem enginePhase_hbrPrev (s : State) : (enginePhase s).hbrPrev = s.inp.hostBrkIn := by simp [enginePhase]
@[simp] theorem enginePhase_codec (s : State) : (enginePhase s).codec = s.codec := by simp [enginePhase]
@[simp] theorem enginePhase_tbl (s : State) : (enginePhase s).tbl = s.tbl := by simp [enginePhase]
@[simp] theorem enginePhase_relay (s : State) : (enginePhase s).relay = relayTick s.par s.relay := by simp [enginePhase]
@[simp] theorem enginePhase_rspErr (s : State) : (enginePhase s).rspErr = s.rspErr := by simp [enginePhase]
@[simp] theorem enginePhase_rspData (s : State) : (enginePhase s).rspData = s.rspData := by simp [enginePhase]
@[simp] theorem enginePhase_inp (s : State) : (enginePhase s).inp = s.inp := by simp [enginePhase]
@[simp] theorem enginePhase_inputs (s : State) : (enginePhase s).inputs = s.inputs := by simp [enginePhase]
@[simp] theorem enginePhase_stepNo (s : State) : (enginePhase s).stepNo = s.stepNo := by simp [enginePhase]

end Sys2Proof.Machine
end

