-- ==== Sys2Proof/Laws/Memory.lean ====
section
/-! SUPPORT. The table RAM (R20): a read after a write, every other byte, the canonical form, and equal contents as
equal data. -/

namespace Sys2Proof.Machine

theorem read_nil (p : Params) (a : Nat) : Memory.read p [] a = resetByte p a := rfl

/-- An address no cell lists reads as its reset value. -/
theorem read_of_not_listed (p : Params) (m : Memory) (a : Nat) (h : ∀ c ∈ m, c.1 ≠ a) :
    Memory.read p m a = resetByte p a := by
  induction m with
  | nil => rfl
  | cons c m ih =>
    have hc : c.1 ≠ a := h c (by simp)
    rw [Memory.read, if_neg hc]
    exact ih fun d hd => h d (by simp [hd])

theorem insert_read_same (p : Params) (m : Memory) (a : Nat) (v : Byte) :
    Memory.read p (Memory.insert a v m) a = v := by
  induction m with
  | nil => simp [Memory.insert, Memory.read]
  | cons c m ih =>
    obtain ⟨b, w⟩ := c
    unfold Memory.insert
    split
    · simp [Memory.read]
    · split
      · simp [Memory.read]
      · rename_i h
        simp [Memory.read, ih, Ne.symm h]

theorem insert_read_other (p : Params) (m : Memory) (a b : Nat) (v : Byte) (h : b ≠ a) :
    Memory.read p (Memory.insert a v m) b = Memory.read p m b := by
  induction m with
  | nil => simp [Memory.insert, Memory.read, Ne.symm h]
  | cons c m ih =>
    obtain ⟨x, w⟩ := c
    unfold Memory.insert
    split
    · simp [Memory.read, Ne.symm h]
    · split
      · subst x
        simp [Memory.read, Ne.symm h]
      · simp [Memory.read, ih]

theorem erase_read_other (p : Params) (m : Memory) (a b : Nat) (h : b ≠ a) :
    Memory.read p (Memory.erase a m) b = Memory.read p m b := by
  induction m with
  | nil => rfl
  | cons c m ih =>
    obtain ⟨x, w⟩ := c
    unfold Memory.erase
    split
    · subst x
      simp [Memory.read, Ne.symm h]
    · simp [Memory.read, ih]

/-- Erasing from rising addresses leaves no cell of the address. -/
theorem erase_not_listed (m : Memory) (a : Nat) (h : m.Pairwise (fun x y => x.1 < y.1)) :
    ∀ c ∈ Memory.erase a m, c.1 ≠ a := by
  induction m with
  | nil => intro c hc; simp [Memory.erase] at hc
  | cons d m ih =>
    obtain ⟨x, w⟩ := d
    rw [List.pairwise_cons] at h
    unfold Memory.erase
    split
    · subst x
      intro c hc
      exact Nat.ne_of_gt (h.1 c hc)
    · rename_i hx
      intro c hc
      rcases List.mem_cons.1 hc with rfl | hc
      · exact Ne.symm hx
      · exact ih h.2 c hc

theorem erase_subset (m : Memory) (a : Nat) : ∀ c ∈ Memory.erase a m, c ∈ m := by
  induction m with
  | nil => intro c hc; simp [Memory.erase] at hc
  | cons d m ih =>
    obtain ⟨x, w⟩ := d
    unfold Memory.erase
    split
    · intro c hc; simp [hc]
    · intro c hc
      rcases List.mem_cons.1 hc with rfl | hc
      · simp
      · simp [ih c hc]

theorem insert_subset (m : Memory) (a : Nat) (v : Byte) : ∀ c ∈ Memory.insert a v m, c = (a, v) ∨ c ∈ m := by
  induction m with
  | nil => intro c hc; simpa [Memory.insert] using hc
  | cons d m ih =>
    obtain ⟨x, w⟩ := d
    unfold Memory.insert
    split
    · intro c hc; simpa using hc
    · split
      · intro c hc
        rcases List.mem_cons.1 hc with rfl | hc
        · exact .inl rfl
        · exact .inr (by simp [hc])
      · intro c hc
        rcases List.mem_cons.1 hc with rfl | hc
        · exact .inr (by simp)
        · rcases ih c hc with h | h
          · exact .inl h
          · exact .inr (by simp [h])

theorem erase_rising (m : Memory) (a : Nat) (h : m.Pairwise (fun x y => x.1 < y.1)) :
    (Memory.erase a m).Pairwise (fun x y => x.1 < y.1) := by
  induction m with
  | nil => exact h
  | cons d m ih =>
    obtain ⟨x, w⟩ := d
    rw [List.pairwise_cons] at h
    unfold Memory.erase
    split
    · exact h.2
    · exact List.pairwise_cons.2 ⟨fun c hc => h.1 c (erase_subset m a c hc), ih h.2⟩

theorem insert_rising (m : Memory) (a : Nat) (v : Byte) (h : m.Pairwise (fun x y => x.1 < y.1)) :
    (Memory.insert a v m).Pairwise (fun x y => x.1 < y.1) := by
  induction m with
  | nil => simp [Memory.insert]
  | cons d m ih =>
    obtain ⟨x, w⟩ := d
    have h' := List.pairwise_cons.1 h
    unfold Memory.insert
    split
    · rename_i hlt
      refine List.pairwise_cons.2 ⟨fun c hc => ?_, h⟩
      rcases List.mem_cons.1 hc with rfl | hc
      · exact hlt
      · exact Nat.lt_trans hlt (h'.1 c hc)
    · split
      · subst x
        exact List.pairwise_cons.2 ⟨h'.1, h'.2⟩
      · refine List.pairwise_cons.2 ⟨fun c hc => ?_, ih h'.2⟩
        rcases insert_subset m a v c hc with rfl | hc
        · show x < a
          omega
        · exact h'.1 c hc

/-- R20: a read of the byte just written. The canonical form matters: a write of the reset value removes the cell. -/
theorem write_read_same (p : Params) (m : Memory) (a : Nat) (v : Byte) (h : m.wf p) :
    (m.write p a v).read p a = v := by
  unfold Memory.write
  split
  · rename_i hv
    rw [read_of_not_listed p _ a (erase_not_listed m a h.1), hv]
  · exact insert_read_same p m a v

/-- R20: a write "changes no other byte". -/
theorem write_read_other (p : Params) (m : Memory) (a b : Nat) (v : Byte) (h : b ≠ a) :
    (m.write p a v).read p b = m.read p b := by
  unfold Memory.write
  split
  · exact erase_read_other p m a b h
  · exact insert_read_other p m a b v h

/-- Every write keeps the canonical form. -/
theorem write_wf (p : Params) (m : Memory) (a : Nat) (v : Byte) (h : m.wf p) (ha : a < tableBytes) :
    (m.write p a v).wf p := by
  unfold Memory.write
  split
  · exact ⟨erase_rising m a h.1, fun c hc => h.2 c (erase_subset m a c hc)⟩
  · rename_i hv
    refine ⟨insert_rising m a v h.1, fun c hc => ?_⟩
    rcases insert_subset m a v c hc with rfl | hc
    · exact ⟨ha, hv⟩
    · exact h.2 c hc

theorem nil_wf (p : Params) : Memory.wf p [] := ⟨List.Pairwise.nil, by simp⟩

/-- Every slot is one of the 448 bytes (R19). -/
theorem slotAddr_lt (s : Fin 7) (k : Bank) (i : Code) : slotAddr s k i < tableBytes := by
  have hs := s.isLt
  have hi := i.isLt
  cases k <;> simp only [slotAddr, Bank.toNat, tableBytes] <;> omega

/-- Different slots are different bytes (R19). -/
theorem slotAddr_injective {s s' : Fin 7} {k k' : Bank} {i i' : Code}
    (h : slotAddr s k i = slotAddr s' k' i') : s = s' ∧ k = k' ∧ i = i' := by
  have hi := i.isLt
  have hi' := i'.isLt
  simp only [slotAddr] at h
  cases k <;> cases k' <;> simp only [Bank.toNat] at h
  · exact ⟨Fin.ext (by omega), rfl, BitVec.eq_of_toNat_eq (by omega)⟩
  · omega
  · omega
  · exact ⟨Fin.ext (by omega), rfl, BitVec.eq_of_toNat_eq (by omega)⟩

theorem tblWrite_tblRead_same (s : State) (t : Fin 7) (k : Bank) (i : Code) (v : Byte) (h : s.tbl.wf s.par) :
    (s.tblWrite t k i v).tblRead t k i = v :=
  write_read_same s.par s.tbl _ v h

theorem tblWrite_tblRead_other (s : State) (t t' : Fin 7) (k k' : Bank) (i i' : Code) (v : Byte)
    (h : ¬(t' = t ∧ k' = k ∧ i' = i)) : (s.tblWrite t k i v).tblRead t' k' i' = s.tblRead t' k' i' :=
  write_read_other s.par s.tbl _ _ v fun e => h (slotAddr_injective e)

end Sys2Proof.Machine
end

