-- ==== Sys2Proof/Laws/Units.lean ====
section
/-! SUPPORT. Everything one step of each unit can do, said once: the receive machine, the line condition, the
transmit machine and the relay sequencer. -/

namespace Sys2Proof.Machine

/-- The receive machine (R46 to R49): it latches the width in `IDLE` and may start a frame there; in a frame it counts
down, samples a data bit, or samples the stop bit. -/
theorem rxTick_cases (d : BitVec 16) (cfg : DataWidth) (lineIn : Bool) (rx : Rx) :
    (rx.state = .idle ∧ rxTick d cfg lineIn rx = rxIdle d cfg lineIn rx) ∨
    (rx.state ≠ .idle ∧ rx.cnt - 1 ≠ 0 ∧ rxTick d cfg lineIn rx = { rx with cnt := rx.cnt - 1 }) ∨
    ((rx.state = .startDetected ∨ rx.state = .samplingBits) ∧ rx.cnt - 1 = 0 ∧
      rxTick d cfg lineIn rx = rxSample d lineIn rx) ∨
    (rx.state = .stopCheck ∧ rx.cnt - 1 = 0 ∧ rxTick d cfg lineIn rx = rxStop lineIn rx) := by
  unfold rxTick
  by_cases hc : rx.cnt - 1 = 0 <;> cases rx.state <;> simp_all

/-- The transmit machine (R55 to R59). -/
theorem txTick_cases (d : BitVec 16) (tx : Tx) :
    (tx.state = .idle ∧ txTick d tx = tx) ∨
    (tx.state ≠ .idle ∧ tx.cnt - 1 ≠ 0 ∧ txTick d tx = { tx with cnt := tx.cnt - 1 }) ∨
    (tx.state = .sendStart ∧ tx.cnt - 1 = 0 ∧ txTick d tx = txFirstBit d tx) ∨
    (tx.state = .sendData ∧ tx.cnt - 1 = 0 ∧ txTick d tx = txNextBit d tx) ∨
    (tx.state = .sendStop ∧ tx.cnt - 1 = 0 ∧ txTick d tx = { tx with cnt := 0, state := .idle, bit := 0 }) ∨
    (tx.state = .sendBreak ∧ tx.cnt - 1 = 0 ∧
      txTick d tx = { tx with cnt := 0, state := .idle, lineOut := true }) := by
  unfold txTick
  by_cases hc : tx.cnt - 1 = 0 <;> cases tx.state <;> simp_all

/-- The relay sequencer (R76 to R78): it rests, counts down, begins the next phase, or ends its sequence. -/
theorem relayTick_cases (p : Params) (r : Relay) :
    ((r.state = .off ∨ r.state = .enabled) ∧ relayTick p r = r) ∨
    ((r.state = .poweringOn ∨ r.state = .poweringOff) ∧ r.cnt - 1 ≠ 0 ∧
      relayTick p r = { r with cnt := r.cnt - 1 }) ∨
    (r.state = .poweringOn ∧ r.cnt - 1 = 0 ∧ r.phase.toNat + 1 < 2 * p.onIters ∧ relayTick p r = nextPhase p r) ∨
    (r.state = .poweringOff ∧ r.cnt - 1 = 0 ∧ r.phase.toNat + 1 < 2 * p.offIters ∧ relayTick p r = nextPhase p r) ∨
    (r.state = .poweringOn ∧ r.cnt - 1 = 0 ∧ 2 * p.onIters ≤ r.phase.toNat + 1 ∧
      relayTick p r =
        { r with cnt := 0, acRelay := true, state := .enabled, phase := 0, ledA := false, ledB := false }) ∨
    (r.state = .poweringOff ∧ r.cnt - 1 = 0 ∧ 2 * p.offIters ≤ r.phase.toNat + 1 ∧
      relayTick p r =
        { r with cnt := 0, loopRelay := false, state := .off, phase := 0, ledA := false, ledB := false }) := by
  unfold relayTick
  by_cases hc : r.cnt - 1 = 0 <;> by_cases hn : r.phase.toNat + 1 < 2 * p.onIters <;>
    by_cases hf : r.phase.toNat + 1 < 2 * p.offIters <;> cases r.state <;> simp_all

/-- The line condition (R51, R52). -/
theorem lineTick_cases (frame : Nat) (lineIn : Bool) (l : LineCond) :
    (lineIn = true ∧ lineTick frame lineIn l = { lowcnt := 0, brk := false, fe := false }) ∨
    (lineIn = false ∧ frame < (lowStep l.lowcnt).toNat ∧
      lineTick frame lineIn l = { lowcnt := lowStep l.lowcnt, brk := true, fe := true }) ∨
    (lineIn = false ∧ (lowStep l.lowcnt).toNat ≤ frame ∧
      lineTick frame lineIn l = { l with lowcnt := lowStep l.lowcnt }) := by
  unfold lineTick
  cases lineIn
  · simp only [Bool.false_eq_true, if_false, false_and, true_and, false_or]
    by_cases h : frame < (lowStep l.lowcnt).toNat
    · exact .inl ⟨h, if_pos h⟩
    · exact .inr ⟨Nat.le_of_not_lt h, if_neg h⟩
  · simp

/-- The low-line counter counts, and saturates at 1048575 (R6, R51). -/
theorem lowStep_toNat (n : BitVec 20) : (lowStep n).toNat = min (n.toNat + 1) 1048575 := by
  unfold lowStep
  split
  · rename_i h; subst h; decide
  · rename_i h
    have hn := n.isLt
    have : n.toNat ≠ 1048575 := fun e => h (BitVec.eq_of_toNat_eq (by rw [e]; decide))
    have h1 : (1 : BitVec 20).toNat = 1 := rfl
    rw [BitVec.toNat_add, h1]
    omega

/-- A low count is never 0. -/
theorem lowStep_ne_zero (n : BitVec 20) : lowStep n ≠ 0 := fun h => by
  have := congrArg BitVec.toNat h
  rw [lowStep_toNat] at this
  simp at this

/-- The width of the frame in progress changes in `IDLE` alone (R46). -/
theorem rxTick_n (d : BitVec 16) (cfg : DataWidth) (lineIn : Bool) (rx : Rx) :
    (rxTick d cfg lineIn rx).n = if rx.state = .idle then cfg else rx.n := by
  rcases rxTick_cases d cfg lineIn rx with ⟨h, e⟩ | ⟨h, -, e⟩ | ⟨h, -, e⟩ | ⟨h, -, e⟩ <;> rw [e]
  · rw [if_pos h, rxIdle]; split <;> rfl
  · rw [if_neg h]
  · rcases h with h | h <;> rw [h] <;> rfl
  · rw [h, rxStop]; split <;> rfl

@[simp] theorem bitTime_toNat (d : BitVec 16) : (bitTime d).toNat = d.toNat := by
  have := d.isLt
  simp only [bitTime, BitVec.toNat_setWidth]
  omega

theorem bitTime_ne_zero {d : BitVec 16} (h : d ≠ 0) : bitTime d ≠ 0 := fun e => h <| by
  have := congrArg BitVec.toNat e
  rw [bitTime_toNat] at this
  exact BitVec.eq_of_toNat_eq (by simpa using this)

/-- FIRST fits the 17 bits of `rx_cnt`: at most 98302 (R40). -/
theorem firstSample_le (d : BitVec 16) : firstSample d ≤ 98302 := by
  have := d.isLt
  simp only [firstSample, halfBit]
  omega

theorem firstSample_pos {d : BitVec 16} (h : d ≠ 0) : 0 < firstSample d := by
  have : d.toNat ≠ 0 := fun e => h (BitVec.eq_of_toNat_eq (by simpa using e))
  simp only [firstSample]
  omega

theorem dataBits_le (w : DataWidth) : 5 ≤ dataBits w ∧ dataBits w ≤ 8 := by cases w <;> decide

/-- Counting down: the event of a counter loaded with v comes v steps later (R39). -/
theorem sub_one_toNat {n : Nat} {c : BitVec n} (h : c ≠ 0) : (c - 1).toNat = c.toNat - 1 := by
  have hc : c.toNat ≠ 0 := fun e => h (BitVec.eq_of_toNat_eq (by simpa using e))
  have hlt := c.isLt
  have h1 : 1 < 2 ^ n ∨ n = 0 := by
    rcases Nat.eq_zero_or_pos n with h | h
    · exact .inr h
    · exact .inl (Nat.one_lt_two_pow (by omega))
  rcases h1 with h1 | rfl
  · have h1' : (1 : BitVec n).toNat = 1 := Nat.mod_eq_of_lt h1
    rw [BitVec.toNat_sub, h1']
    have : 2 ^ n - 1 + c.toNat = (c.toNat - 1) + 2 ^ n := by omega
    rw [this, Nat.add_mod_right, Nat.mod_eq_of_lt (by omega)]
  · simp at hlt; omega

/-- A counter's event comes in the step that finds it at 1 (R39). -/
theorem sub_one_eq_zero {n : Nat} (c : BitVec n) : c - 1 = 0 ↔ c = 1 := by
  constructor
  · intro h
    have h1 : c - 1 + 1 = 0 + 1 := by rw [h]
    rw [BitVec.sub_add_cancel] at h1
    simpa using h1
  · rintro rfl
    simp

/-- A framing error is reported on a low line only (R49). -/
theorem rxOutcome_framingError {lineIn : Bool} {rx : Rx} (h : rxOutcome lineIn rx = .framingError) :
    lineIn = false := by
  unfold rxOutcome at h
  split at h
  · split at h <;> simp_all
  · cases h

/-- The events of an engine phase (R38, R49, R52, R54). -/
theorem enginePhase_ev (s : State) :
    (enginePhase s).ev =
      { feev := s.ev.feev || decide (rxOutcome s.inp.lineIn s.rx = .framingError)
        fefall := s.ev.fefall || (s.inp.lineIn && s.line.fe)
        ovr := s.ev.ovr || (decide (rxOutcome s.inp.lineIn s.rx = .byteReady) && s.rx.ready)
        txrej := s.ev.txrej
        hbr := s.ev.hbr || (!s.hbrPrev && s.inp.hostBrkIn) } := by
  have hl := @rxOutcome_framingError s.inp.lineIn s.rx
  simp only [enginePhase, engineRelay_ev, engineTx_ev, engineHostBreak_ev, engineHistory_ev, engineLine_ev,
    engineRx_eq, engineHistory_hbrPrev, engineLine_hbrPrev, engineHistory_inp, engineLine_inp]
  cases ho : rxOutcome s.inp.lineIn s.rx <;> cases hr : s.rx.ready <;> cases hi : s.inp.lineIn <;>
    cases hf : s.line.fe <;> cases hh : s.hbrPrev <;> cases hb : s.inp.hostBrkIn <;> simp_all [Sticky.set]

/-- The sticky bits after an engine phase: `S1.b = S0.b OR` the engine-phase events (R38). -/
theorem enginePhase_sticky (s : State) :
    (enginePhase s).sticky =
      { feev := s.sticky.feev || decide (rxOutcome s.inp.lineIn s.rx = .framingError)
        fefall := s.sticky.fefall || (s.inp.lineIn && s.line.fe)
        ovr := s.sticky.ovr || (decide (rxOutcome s.inp.lineIn s.rx = .byteReady) && s.rx.ready)
        txrej := s.sticky.txrej
        hbr := s.sticky.hbr || (!s.hbrPrev && s.inp.hostBrkIn) } := by
  have hl := @rxOutcome_framingError s.inp.lineIn s.rx
  simp only [enginePhase, engineRelay_sticky, engineTx_sticky, engineHostBreak_sticky, engineHistory_sticky,
    engineLine_sticky, engineRx_eq, engineHistory_hbrPrev, engineLine_hbrPrev, engineHistory_inp, engineLine_inp]
  cases ho : rxOutcome s.inp.lineIn s.rx <;> cases hr : s.rx.ready <;> cases hi : s.inp.lineIn <;>
    cases hf : s.line.fe <;> cases hh : s.hbrPrev <;> cases hb : s.inp.hostBrkIn <;> simp_all [Sticky.set]

end Sys2Proof.Machine
end

