-- ==== Sys2Proof/Laws/Exec.lean ====
section
/-! SUPPORT. What a command can do to each unit, said once (inversion of exec), and what a step is made of. -/

namespace Sys2Proof.Machine

open Host (Outcome)

/-- Close a goal about one arm: unfold the meaning, split its cases, read the field off the state given. -/
theorem next_inj {s t : State} (h : (Outcome.next s : Result) = .next t) : s = t := by
  cases h; rfl

/-- No command writes the parameters or what belongs to the environment. -/
theorem exec_environment (i : Instr) (s t : State) (h : exec i s = .next t) :
    t.par = s.par ∧ t.inp = s.inp ∧ t.inputs = s.inputs ∧ t.stepNo = s.stepNo := by
  cases i <;> simp only [exec, execNop, execTxput, execRxget, execRdreg, execClrst, execSetdiv, execSetwid,
    execSendbrk, execEnc, execDec, execSetsh, execSetusos, execSetsel, execTblwr, execTblrd, execRelay] at h <;>
    repeat' split at h
  all_goals cases next_inj h; simp

/-- No command touches the line condition or the host-break history (R10, R12). -/
theorem exec_line (i : Instr) (s t : State) (h : exec i s = .next t) :
    t.line = s.line ∧ t.hbrPrev = s.hbrPrev := by
  cases i <;> simp only [exec, execNop, execTxput, execRxget, execRdreg, execClrst, execSetdiv, execSetwid,
    execSendbrk, execEnc, execDec, execSetsh, execSetusos, execSetsel, execTblwr, execTblrd, execRelay] at h <;>
    repeat' split at h
  all_goals cases next_inj h; simp

/-- The relay sequencer is written by RELAY alone, and only at rest (R79). -/
theorem exec_relay (i : Instr) (s t : State) (h : exec i s = .next t) :
    t.relay = s.relay ∨
    ∃ on, i = .relay on ∧ s.relay.state ≠ .poweringOn ∧ s.relay.state ≠ .poweringOff ∧
      t.relay = relayStart s.par on s.relay := by
  cases i <;> simp only [exec, execNop, execTxput, execRxget, execRdreg, execClrst, execSetdiv, execSetwid,
    execSendbrk, execEnc, execDec, execSetsh, execSetusos, execSetsel, execTblwr, execTblrd, execRelay] at h <;>
    repeat' split at h
  all_goals cases next_inj h; simp_all

/-- The transmit machine is written by TXPUT, SENDBRK and SETDIV alone (R60, R62, R42). -/
theorem exec_tx (i : Instr) (s t : State) (h : exec i s = .next t) :
    t.tx = s.tx ∨
    (∃ b, i = .txput b ∧ s.tx.state = .idle ∧
      t.tx = { state := .sendStart, cnt := bitTime s.div, bit := 0, shift := b, n := s.txWCfg, lineOut := false }) ∨
    (i = .sendbrk ∧ s.tx.state ≠ .sendBreak ∧
      t.tx = { s.tx with state := .sendBreak, cnt := s.par.breakTicks, bit := 0, lineOut := false }) ∨
    (∃ v, i = .setdiv v ∧ t.tx = restartTx (divisorOf s.par v) s.tx) := by
  cases i <;> simp only [exec, execNop, execTxput, execRxget, execRdreg, execClrst, execSetdiv, execSetwid,
    execSendbrk, execEnc, execDec, execSetsh, execSetusos, execSetsel, execTblwr, execTblrd, execRelay] at h <;>
    repeat' split at h
  all_goals cases next_inj h; simp_all

/-- The receive machine is written by RXGET and SETDIV alone (R61, R42). -/
theorem exec_rx (i : Instr) (s t : State) (h : exec i s = .next t) :
    t.rx = s.rx ∨
    (i = .rxget ∧ s.rx.ready = true ∧ t.rx = { s.rx with ready := false }) ∨
    (∃ v, i = .setdiv v ∧ t.rx = restartRx (divisorOf s.par v) s.rx) := by
  cases i <;> simp only [exec, execNop, execTxput, execRxget, execRdreg, execClrst, execSetdiv, execSetwid,
    execSendbrk, execEnc, execDec, execSetsh, execSetusos, execSetsel, execTblwr, execTblrd, execRelay] at h <;>
    repeat' split at h
  all_goals cases next_inj h; simp_all

/-- The divisor is written by SETDIV alone (R8). -/
theorem exec_div (i : Instr) (s t : State) (h : exec i s = .next t) :
    t.div = s.div ∨ ∃ v, i = .setdiv v ∧ t.div = divisorOf s.par v := by
  cases i <;> simp only [exec, execNop, execTxput, execRxget, execRdreg, execClrst, execSetdiv, execSetwid,
    execSendbrk, execEnc, execDec, execSetsh, execSetusos, execSetsel, execTblwr, execTblrd, execRelay] at h <;>
    repeat' split at h
  all_goals cases next_inj h; simp_all

/-- The configured widths are written by SETWID alone (R8). -/
theorem exec_widths (i : Instr) (s t : State) (h : exec i s = .next t) :
    (t.rxWCfg = s.rxWCfg ∧ t.txWCfg = s.txWCfg) ∨ ∃ r x, i = .setwid r x ∧ t.rxWCfg = r ∧ t.txWCfg = x := by
  cases i <;> simp only [exec, execNop, execTxput, execRxget, execRdreg, execClrst, execSetdiv, execSetwid,
    execSendbrk, execEnc, execDec, execSetsh, execSetusos, execSetsel, execTblwr, execTblrd, execRelay] at h <;>
    repeat' split at h
  all_goals cases next_inj h; simp_all

/-- The table RAM is written by TBLWR alone, one byte of a table that exists (R19, R73). -/
theorem exec_tbl (i : Instr) (s t : State) (h : exec i s = .next t) :
    t.tbl = s.tbl ∨
    ∃ tsel k x b n, i = .tblwr tsel k x b ∧ tableOf tsel = some n ∧
      t.tbl = s.tbl.write s.par (slotAddr n k x) b := by
  cases i <;> simp only [exec, execNop, execTxput, execRxget, execRdreg, execClrst, execSetdiv, execSetwid,
    execSendbrk, execEnc, execDec, execSetsh, execSetusos, execSetsel, execTblwr, execTblrd, execRelay] at h <;>
    repeat' split at h
  all_goals cases next_inj h; simp_all

/-- The sticky bits are written by CLRST, and by a TXPUT that is refused (R12, R38). -/
theorem exec_sticky (i : Instr) (s t : State) (h : exec i s = .next t) :
    ((∀ m, i ≠ .clrst m) ∧ t.sticky = s.sticky ∧ ¬((∃ b, i = .txput b) ∧ s.tx.state ≠ .idle)) ∨
    (∃ m, i = .clrst m ∧ t.sticky = s.sticky.clear s.ev m) ∨
    (∃ b, i = .txput b ∧ s.tx.state ≠ .idle ∧ t.sticky = s.sticky.set .txrej) := by
  cases i <;> simp only [exec, execNop, execTxput, execRxget, execRdreg, execClrst, execSetdiv, execSetwid,
    execSendbrk, execEnc, execDec, execSetsh, execSetusos, execSetsel, execTblwr, execTblrd, execRelay] at h <;>
    repeat' split at h
  all_goals cases next_inj h; simp_all

/-- The one event of a command phase is a TXPUT that is refused (R38, R60). -/
theorem exec_ev (i : Instr) (s t : State) (h : exec i s = .next t) :
    ((∃ b, i = .txput b) ∧ s.tx.state ≠ .idle ∧ t.ev = s.ev.set .txrej) ∨
    (¬((∃ b, i = .txput b) ∧ s.tx.state ≠ .idle) ∧ t.ev = s.ev) := by
  cases i <;> simp only [exec, execNop, execTxput, execRxget, execRdreg, execClrst, execSetdiv, execSetwid,
    execSendbrk, execEnc, execDec, execSetsh, execSetusos, execSetsel, execTblwr, execTblrd, execRelay] at h <;>
    repeat' split at h
  all_goals cases next_inj h; simp_all

/-- The codec registers are written by ENC, DEC, SETSH, SETUSOS and SETSEL alone (R13). -/
theorem exec_codec (i : Instr) (s t : State) (h : exec i s = .next t) :
    t.codec = s.codec ∨ (∃ c, i = .enc c) ∨ (∃ c, i = .dec c) ∨ (∃ d q, i = .setsh d q) ∨
    (∃ u, i = .setusos u) ∨ ∃ v, i = .setsel v := by
  cases i <;> simp only [exec, execNop, execTxput, execRxget, execRdreg, execClrst, execSetdiv, execSetwid,
    execSendbrk, execEnc, execDec, execSetsh, execSetusos, execSetsel, execTblwr, execTblrd, execRelay] at h <;>
    repeat' split at h
  all_goals cases next_inj h; simp_all

/-- Every command answers (R83, R86: no command stops the block). -/
theorem exec_answers (i : Instr) (s : State) : ∃ t, exec i s = .next t := by
  cases i <;> simp only [exec, execNop, execTxput, execRxget, execRdreg, execClrst, execSetdiv, execSetwid,
    execSendbrk, execEnc, execDec, execSetsh, execSetusos, execSetsel, execTblwr, execTblrd, execRelay] <;>
    repeat' split
  all_goals exact ⟨_, rfl⟩

/-- Everything a step that answers a next state can be (R5, R36): with accepted parameters it is a reset step, a step
without a command, a word with a reserved bit, or the decoded command on the state the engine phase left. -/
theorem step_cases (s t : State) (h : step s = .next t) :
    s.par.wf = true ∧
    ((s.nextInput.rst = true ∧ t = s.takeInput.resetStep) ∨
     (s.nextInput.rst = false ∧ s.nextInput.cmdValid = false ∧
       t = (enginePhase s.takeInput).respond 0) ∨
     (s.nextInput.rst = false ∧ s.nextInput.cmdValid = true ∧ decode s.nextInput.cmd = .error .reservedBits ∧
       t = (enginePhase s.takeInput).raise .rsvdBits) ∨
     (s.nextInput.rst = false ∧ s.nextInput.cmdValid = true ∧
       ∃ i, decode s.nextInput.cmd = .ok i ∧ exec i (enginePhase s.takeInput) = .next t)) := by
  unfold step at h
  split at h
  · rename_i hw
    refine ⟨hw, ?_⟩
    unfold runStep at h
    split at h
    · rename_i hr
      exact .inl ⟨by simpa using hr, (next_inj h).symm⟩
    · rename_i hr
      have hr' : s.nextInput.rst = false := by simpa using hr
      unfold commandPhase at h
      simp only [enginePhase_inp, takeInput_inp] at h
      split at h
      · rename_i hv
        split at h
        · rename_i i hd
          exact .inr (.inr (.inr ⟨hr', hv, i, hd, h⟩))
        · rename_i hd
          exact .inr (.inr (.inl ⟨hr', hv, hd, (next_inj h).symm⟩))
      · rename_i hv
        exact .inr (.inl ⟨hr', by simpa using hv, (next_inj h).symm⟩)
  · cases h

/-- No step writes the parameters. -/
theorem step_par (s t : State) (h : step s = .next t) : t.par = s.par := by
  obtain ⟨-, h | h | h | ⟨-, -, i, -, he⟩⟩ := step_cases s t h
  · rw [h.2]; rfl
  · rw [h.2.2]; simp
  · rw [h.2.2.2]; simp
  · rw [(exec_environment i _ t he).1]; simp

/-- One step of a run, then the rest. -/
theorem run_succ (k : Nat) (s t u : State) (h : step s = .next t)
    (hu : Host.Core.run Sys2Proof.core k t = .next u) : Host.Core.run Sys2Proof.core (k + 1) s = .next u := by
  have hs : Sys2Proof.core.step s = .next t := h
  simp only [Host.Core.run, hs, hu]

end Sys2Proof.Machine
end

