-- ==== Sys2Proof/Laws/PerInstr.lean ====
section
/-! SUPPORT. Facts about the command words made per instruction. `EncodeFits`: the word the encoder writes carries its
instruction's opcode and holds 0 at every reserved position (R28, R30, R31). -/

namespace Sys2Proof.Laws.EncodeFits

/-- The encoder's word has the instruction's opcode and no reserved bit. -/
def Statement (i : Instr) : Prop := opcodeOf (encode i) = i.opcode ∧ reservedZero (encode i) = true

/-- The number of an encoding is a 24-bit number (R28). -/
theorem encodeNat_lt (i : Instr) : encodeNat i < 2 ^ 24 := by
  cases i <;> simp only [encodeNat]
  case txput b => have := b.isLt; omega
  case rdreg r => have := r.isLt; omega
  case clrst m => have := m.isLt; omega
  case setdiv v => have := v.isLt; omega
  case setwid r t => cases r <;> cases t <;> decide
  case enc b => have := b.isLt; omega
  case dec c => have := c.isLt; omega
  case setsh d q => cases d <;> cases q <;> decide
  case setusos u => cases u <;> decide
  case setsel v => have := v.isLt; omega
  case tblwr t k i b =>
    have := t.isLt; have := i.isLt; have := b.isLt
    cases k <;> simp only [Bank.toNat] <;> omega
  case tblrd t k i =>
    have := t.isLt; have := i.isLt
    cases k <;> simp only [Bank.toNat] <;> omega
  case relay on => cases on <;> decide
  all_goals decide

/-- A field of an encoder's word, as arithmetic on the number of R34. -/
theorem field_encode (i : Instr) (lo len : Nat) :
    field (encode i) lo len = BitVec.ofNat len (encodeNat i / 2 ^ lo) := by
  apply BitVec.eq_of_toNat_eq
  have h := encodeNat_lt i
  rw [field, BitVec.extractLsb'_toNat, encode, BitVec.toNat_ofNat, Nat.mod_eq_of_lt h, BitVec.toNat_ofNat,
    Nat.shiftRight_eq_div_pow]

/-- A field reads as the number `v` when the arithmetic says so. -/
theorem field_eq (i : Instr) (lo len v : Nat) (h : encodeNat i / 2 ^ lo % 2 ^ len = v % 2 ^ len) :
    field (encode i) lo len = BitVec.ofNat len v := by
  rw [field_encode]
  exact BitVec.eq_of_toNat_eq (by simpa using h)

theorem nop : Statement .nop := ⟨by decide, by decide⟩

theorem txput (byte : Byte) : Statement (.txput byte) := by
  have := byte.isLt
  have ho : opcodeOf (encode (.txput byte)) = 1 := field_eq _ 20 4 1 (by simp only [encodeNat]; omega)
  refine ⟨ho, ?_⟩
  simp only [reservedZero, ho]
  exact beq_iff_eq.2 (field_eq _ 8 12 0 (by simp only [encodeNat]; omega))

theorem rxget : Statement .rxget := ⟨by decide, by decide⟩

theorem rdreg (reg : BitVec 3) : Statement (.rdreg reg) := by
  have := reg.isLt
  have ho : opcodeOf (encode (.rdreg reg)) = 3 := field_eq _ 20 4 3 (by simp only [encodeNat]; omega)
  refine ⟨ho, ?_⟩
  simp only [reservedZero, ho]
  exact beq_iff_eq.2 (field_eq _ 3 17 0 (by simp only [encodeNat]; omega))

theorem clrst (mask : BitVec 5) : Statement (.clrst mask) := by
  have := mask.isLt
  have ho : opcodeOf (encode (.clrst mask)) = 4 := field_eq _ 20 4 4 (by simp only [encodeNat]; omega)
  refine ⟨ho, ?_⟩
  simp only [reservedZero, ho]
  have h1 : field (encode (.clrst mask)) 13 7 = 0 := field_eq _ 13 7 0 (by simp only [encodeNat]; omega)
  have h2 : field (encode (.clrst mask)) 0 8 = 0 := field_eq _ 0 8 0 (by simp only [encodeNat]; omega)
  rw [h1, h2]
  rfl

theorem setdiv (value : BitVec 16) : Statement (.setdiv value) := by
  have := value.isLt
  have ho : opcodeOf (encode (.setdiv value)) = 5 := field_eq _ 20 4 5 (by simp only [encodeNat]; omega)
  refine ⟨ho, ?_⟩
  simp only [reservedZero, ho]
  exact beq_iff_eq.2 (field_eq _ 16 4 0 (by simp only [encodeNat]; omega))

theorem setwid (rx8 tx8 : DataWidth) : Statement (.setwid rx8 tx8) := by
  cases rx8 <;> cases tx8 <;> exact ⟨by decide, by decide⟩

theorem sendbrk : Statement .sendbrk := ⟨by decide, by decide⟩

theorem enc (ascii : Byte) : Statement (.enc ascii) := by
  have := ascii.isLt
  have ho : opcodeOf (encode (.enc ascii)) = 8 := field_eq _ 20 4 8 (by simp only [encodeNat]; omega)
  refine ⟨ho, ?_⟩
  simp only [reservedZero, ho]
  exact beq_iff_eq.2 (field_eq _ 8 12 0 (by simp only [encodeNat]; omega))

theorem dec (code : Code) : Statement (.dec code) := by
  have := code.isLt
  have ho : opcodeOf (encode (.dec code)) = 9 := field_eq _ 20 4 9 (by simp only [encodeNat]; omega)
  refine ⟨ho, ?_⟩
  simp only [reservedZero, ho]
  exact beq_iff_eq.2 (field_eq _ 5 15 0 (by simp only [encodeNat]; omega))

theorem setsh (dir : Dir) (state : ShiftState) : Statement (.setsh dir state) := by
  cases dir <;> cases state <;> exact ⟨by decide, by decide⟩

theorem setusos (u : Bool) : Statement (.setusos u) := by cases u <;> exact ⟨by decide, by decide⟩

theorem setsel (value : Byte) : Statement (.setsel value) := by
  have := value.isLt
  have ho : opcodeOf (encode (.setsel value)) = 12 := field_eq _ 20 4 12 (by simp only [encodeNat]; omega)
  refine ⟨ho, ?_⟩
  simp only [reservedZero, ho]
  exact beq_iff_eq.2 (field_eq _ 8 12 0 (by simp only [encodeNat]; omega))

theorem tblwr (tsel : BitVec 3) (bank : Bank) (idx : Code) (byte : Byte) :
    Statement (.tblwr tsel bank idx byte) := by
  have := tsel.isLt
  have := idx.isLt
  have := byte.isLt
  have hb : bank.toNat ≤ 1 := by cases bank <;> decide
  have ho : opcodeOf (encode (.tblwr tsel bank idx byte)) = 13 :=
    field_eq _ 20 4 13 (by simp only [encodeNat]; omega)
  refine ⟨ho, ?_⟩
  simp only [reservedZero, ho]
  exact beq_iff_eq.2 (field_eq _ 17 3 0 (by simp only [encodeNat]; omega))

theorem tblrd (tsel : BitVec 3) (bank : Bank) (idx : Code) : Statement (.tblrd tsel bank idx) := by
  have := tsel.isLt
  have := idx.isLt
  have hb : bank.toNat ≤ 1 := by cases bank <;> decide
  have ho : opcodeOf (encode (.tblrd tsel bank idx)) = 14 := field_eq _ 20 4 14 (by simp only [encodeNat]; omega)
  refine ⟨ho, ?_⟩
  simp only [reservedZero, ho]
  have h1 : field (encode (.tblrd tsel bank idx)) 17 3 = 0 := field_eq _ 17 3 0 (by simp only [encodeNat]; omega)
  have h2 : field (encode (.tblrd tsel bank idx)) 0 8 = 0 := field_eq _ 0 8 0 (by simp only [encodeNat]; omega)
  rw [h1, h2]
  rfl

theorem relay (on : Bool) : Statement (.relay on) := by cases on <;> exact ⟨by decide, by decide⟩

end Sys2Proof.Laws.EncodeFits
end

