-- ==== Sys2Proof/Tests/Slice0.lean ====
section
/-! SUPPORT. Tests: the well-formedness smoke, words written out from R30 and what they decode to, one step of each
command and of each engine unit with values from the spec's examples, and a witness for the hypotheses of each
obligation. -/

namespace Sys2Proof.Tests

open Sys2Proof Sys2Proof.Machine

-- ---------------------------------------------------------------- well-formedness: one ill-formed term a check

theorem test_wf_standard : Params.standard.wf = true := by decide
theorem test_wf_fStep : { Params.standard with fStep := 0 }.wf = false := by decide
theorem test_wf_divDefault : { Params.standard with divDefault := 0 }.wf = false := by decide
theorem test_wf_breakTicks : { Params.standard with breakTicks := 0 }.wf = false := by decide
theorem test_wf_phaseTicks : { Params.standard with phaseTicks := 0 }.wf = false := by decide
theorem test_wf_onIters_low : { Params.standard with onIters := 0 }.wf = false := by decide
theorem test_wf_onIters_high : { Params.standard with onIters := 9 }.wf = false := by decide
theorem test_wf_offIters_low : { Params.standard with offIters := 0 }.wf = false := by decide
theorem test_wf_offIters_high : { Params.standard with offIters := 9 }.wf = false := by decide
theorem test_wf_shift_codes : { Params.standard with ltrsCode := 0x1F }.wf = false := by decide
theorem test_wf_canonL : { Params.standard with canonL := [] }.wf = false := by decide
theorem test_wf_canonF : { Params.standard with canonF := 0 :: canonFigures }.wf = false := by decide

theorem test_line_txput : (AsmLine.txput 255).wf = true ∧ (AsmLine.txput 256).wf = false := by decide
theorem test_line_rdreg : (AsmLine.rdreg 7).wf = true ∧ (AsmLine.rdreg 8).wf = false := by decide
theorem test_line_clrst : (AsmLine.clrst 0x1F00).wf = true ∧ (AsmLine.clrst 1).wf = false ∧
    (AsmLine.clrst 0x2000).wf = false := by decide
theorem test_line_setdiv : (AsmLine.setdiv 65535).wf = true ∧ (AsmLine.setdiv 65536).wf = false := by decide
theorem test_line_setwid : (AsmLine.setwid 8 5).wf = true ∧ (AsmLine.setwid 7 5).wf = false ∧
    (AsmLine.setwid 5 6).wf = false := by decide
theorem test_line_enc : (AsmLine.enc 255).wf = true ∧ (AsmLine.enc 256).wf = false := by decide
theorem test_line_dec : (AsmLine.dec 31).wf = true ∧ (AsmLine.dec 32).wf = false := by decide
theorem test_line_setusos : (AsmLine.setusos 1).wf = true ∧ (AsmLine.setusos 2).wf = false := by decide
theorem test_line_setsel : (AsmLine.setsel 255).wf = true ∧ (AsmLine.setsel 256).wf = false := by decide
theorem test_line_tblwr : (AsmLine.tblwr 7 .figures 31 255).wf = true ∧ (AsmLine.tblwr 8 .letters 0 0).wf = false ∧
    (AsmLine.tblwr 0 .letters 32 0).wf = false ∧ (AsmLine.tblwr 0 .letters 0 256).wf = false := by decide
theorem test_line_tblrd : (AsmLine.tblrd 7 .figures 31).wf = true ∧ (AsmLine.tblrd 8 .letters 0).wf = false ∧
    (AsmLine.tblrd 0 .letters 32).wf = false := by decide
theorem test_line_wait : (AsmLine.wait 1).wf = true ∧ (AsmLine.wait 0).wf = false := by decide
theorem test_line_setbaud : (AsmLine.setbaud 1).wf = true ∧ (AsmLine.setbaud 0).wf = false := by decide
theorem test_line_poll : (AsmLine.poll 7 65535 65535).wf = true ∧ (AsmLine.poll 8 0 0).wf = false ∧
    (AsmLine.poll 0 65536 0).wf = false ∧ (AsmLine.poll 0 0 65536).wf = false := by decide

-- ---------------------------------------------------------------- decoding: words written out from R30's patterns

theorem test_decode_nop : decode 0b000000000000000000000000 = .ok .nop := rfl
theorem test_decode_txput : decode 0b000100000000000010100110 = .ok (.txput 0xA6) := rfl
theorem test_decode_rxget : decode 0b001000000000000000000000 = .ok .rxget := rfl
theorem test_decode_rdreg : decode 0b001100000000000000000101 = .ok (.rdreg 5) := rfl
theorem test_decode_clrst : decode 0b010000000001000100000000 = .ok (.clrst 0x11) := rfl
theorem test_decode_setdiv : decode 0b010100001000001000000001 = .ok (.setdiv 0x8201) := rfl
theorem test_decode_setwid : decode 0b011000000000000000000010 = .ok (.setwid .five .eight) := rfl
theorem test_decode_sendbrk : decode 0b011100000000000000000000 = .ok .sendbrk := rfl
theorem test_decode_enc : decode 0b100000000000000001000001 = .ok (.enc 0x41) := rfl
theorem test_decode_dec : decode 0b100100000000000000010100 = .ok (.dec 0x14) := rfl
theorem test_decode_setsh : decode 0b101000000000000000000010 = .ok (.setsh .receive .ltrs) := rfl
theorem test_decode_setusos : decode 0b101100000000000000000001 = .ok (.setusos true) := rfl
theorem test_decode_setsel : decode 0b110000000000000000001001 = .ok (.setsel 9) := rfl
theorem test_decode_tblwr : decode 0b110100010010001101000001 = .ok (.tblwr 4 .figures 3 0x41) := rfl
theorem test_decode_tblrd : decode 0b111000001101000000000000 = .ok (.tblrd 3 .letters 16) := rfl
theorem test_decode_relay : decode 0b111100000000000000000001 = .ok (.relay true) := rfl

/-- One reserved bit of each opcode, the lowest or the highest of its reserved field (R30, R31). -/
theorem test_reserved :
    [0x000001, 0x100100, 0x280000, 0x300008, 0x400080, 0x402000, 0x510000, 0x600004, 0x700001, 0x800100, 0x900020,
      0xA80000, 0xB00002, 0xC00100, 0xD20000, 0xE20000, 0xE00080, 0xF00002].all
      (fun w => decode w matches .error .reservedBits) = true := by decide

/-- No two rows of opcode_table.json overlap. -/
theorem test_rows_disjoint :
    opcodeTable.Pairwise (fun x y => x.pattern &&& (x.mask &&& y.mask) ≠ y.pattern &&& (x.mask &&& y.mask)) := by
  decide

theorem test_decodeTableWord : decodeTableWord 24 0xF00001 = some (.relay true) ∧
    decodeTableWord 24 0xF00002 = none := ⟨rfl, rfl⟩

theorem test_encode : encode (.tblwr 1 .letters 3 0x41) = 0xD04341 ∧ encode (.setdiv 1111) = 0x500457 ∧
    encode (.clrst 0x1F) = 0x401F00 := by decide

-- ---------------------------------------------------------------- one step of each command

/-- The state after a step that presents this word on a quiet line. -/
def after (s : State) (w : Cmd) : State :=
  match step (s.present w) with
  | .next t => t
  | _ => s

/-- The response of that step. -/
def resp (s : State) (w : Cmd) : Bool × Rsp := ((after s w).rspErr, (after s w).rspData)

/-- The state one step after reset on an idle line, `div` = 4: `rx_prev` and the frame widths have settled. -/
def idle4 : State :=
  { State.reset with div := 4, rx := { State.reset.rx with prev := true }, hbrPrev := false }

/-- With a byte being sent. -/
def busy : State := { idle4 with tx := { idle4.tx with state := .sendStart, cnt := 4, shift := 3, lineOut := false } }

/-- With a byte received. -/
def full : State := { idle4 with rx := { idle4.rx with ready := true, data := 1 } }

/-- In the figures shift in both directions. -/
def figs : State := { idle4 with codec := { idle4.codec with sendShift := .figs, recvShift := .figs } }

/-- R41, example. -/
theorem test_nop : resp State.reset 0x000000 = (false, 0) := by decide
/-- R60, example. -/
theorem test_txput : resp idle4 0x100003 = (false, 0) ∧ (after idle4 0x100003).tx.lineOut = false := by decide
/-- 95 section 2.3, TX1: refused with TX_BUSY, `txrej` set. -/
theorem test_txput_busy : resp busy 0x100001 = (true, 3) ∧ (after busy 0x100001).sticky.txrej = true := by decide
/-- R61, example. -/
theorem test_rxget : resp full 0x200000 = (false, 1) ∧ (after full 0x200000).rx.ready = false := by decide
/-- R61, example. -/
theorem test_rxget_empty : resp idle4 0x200000 = (true, 4) := by decide
/-- R64, example; R32. -/
theorem test_rdreg : resp State.reset 0x300000 = (false, 0x0022) ∧ resp State.reset 0x300001 = (false, 0x0683) ∧
    resp State.reset 0x300007 = (true, 2) := by decide
/-- 95 section 2.4, LC2, step 6. -/
theorem test_clrst : resp { idle4 with sticky := { Sticky.none with hbr := true } } 0x401000 = (false, 0x0022) := by
  decide
/-- 95 section 2.4, LC2, step 4: the edge of this step survives the clear. -/
theorem test_clrst_same_step :
    resp { idle4 with inputs := [{ StepInput.quiet with hostBrkIn := true }] } 0x401000 = (false, 0x1022) := by decide
/-- R42, examples. -/
theorem test_setdiv : resp State.reset 0x500457 = (false, 0x0457) ∧ resp idle4 0x500000 = (false, 0x0683) := by decide
/-- R103: a start edge and SETDIV 8 in one step: `rx_cnt` is 8. -/
theorem test_setdiv_restarts :
    (after { idle4 with inputs := [{ StepInput.quiet with lineIn := false }] } 0x500008).rx.cnt = 8 := by decide
/-- R63, example. -/
theorem test_setwid : resp State.reset 0x600003 = (false, 3) := by decide
/-- R62. -/
theorem test_sendbrk : resp busy 0x700000 = (false, 0) ∧ (after busy 0x700000).tx.cnt = 41667 ∧
    (after busy 0x700000).tx.lineOut = false := by decide
/-- 95 section 2.3, TX6. -/
theorem test_sendbrk_again :
    resp { busy with tx := { busy.tx with state := .sendBreak } } 0x700000 = (true, 3) := by decide
/-- R68, examples. -/
theorem test_enc : resp State.reset 0x800041 = (false, 0x0023) ∧ resp figs 0x800033 = (false, 0x0121) := by decide
/-- R68, example: the shift code first. -/
theorem test_enc_shift : resp State.reset 0x800033 = (false, 0x017F) ∧
    (after State.reset 0x800033).codec.sendShift = .figs := by decide
/-- R69, examples. -/
theorem test_dec : resp figs 0x900005 = (false, 0x0507) ∧ resp State.reset 0x900000 = (false, 0x0800) := by decide
/-- R69, example. -/
theorem test_dec_shift : resp figs 0x90001B = (false, 0x0200) ∧ (after figs 0x90001B).codec.recvShift = .ltrs := by
  decide
/-- R70, example; 95 section 1, S6, step 2. -/
theorem test_setsh : resp State.reset 0xA00001 = (false, 0x017F) ∧ resp State.reset 0xA00003 = (false, 0x041F) := by
  decide
/-- R71, example. -/
theorem test_setusos : resp State.reset 0xB00001 = (false, 1) ∧ (after State.reset 0xB00001).codec.usos = true := by
  decide
/-- R72, examples. -/
theorem test_setsel : resp State.reset 0xC00003 = (false, 3) ∧ resp State.reset 0xC00009 = (false, 0) := by decide
/-- R73, example; the byte is then read by R74. -/
theorem test_tblwr : resp State.reset 0xD04341 = (false, 0x0041) ∧
    resp (after State.reset 0xD04341) 0xE04300 = (false, 0x0041) := by decide
/-- R82; writing the reset value back leaves no cell listed. -/
theorem test_tblwr_canonical : resp State.reset 0xD1C000 = (true, 2) ∧
    (after (after State.reset 0xD04341) 0xD04300).tbl = [] := by decide
/-- R74, example; R84, example. -/
theorem test_tblrd : resp State.reset 0xE02500 = (false, 0x0007) ∧ resp State.reset 0xE1C001 = (true, 1) := by decide
/-- R79, examples. -/
theorem test_relay : resp State.reset 0xF00001 = (false, 0x0035) ∧
    resp (after State.reset 0xF00001) 0xF00001 = (true, 5) := by decide
/-- The host's interface: the word is run by the very next step. -/
theorem test_withFetchWord :
    (match step (State.reset.withFetchWord 24 0xC00003) with | .next t => t.rspData | _ => 9) = 3 := by decide

-- ---------------------------------------------------------------- one engine phase of each unit, and the labels

/-- With this level on the line. -/
def onLine (l : Bool) (s : State) : State := { s with inp := { StepInput.quiet with lineIn := l } }

/-- R47, example: `rx_cnt` = 6. -/
theorem test_start_edge : (enginePhase (onLine false idle4)).rx.cnt = 6 ∧
    (enginePhase (onLine false idle4)).rx.state = .startDetected := by decide
/-- R48, example. -/
theorem test_data_sample :
    (enginePhase (onLine true { idle4 with rx := { idle4.rx with state := .startDetected, cnt := 1 } })).rx =
      { idle4.rx with state := .samplingBits, cnt := 4, bit := 1, shift := 1 } := by decide
/-- R49, example. -/
theorem test_stop_bit :
    (enginePhase (onLine true
      { idle4 with rx := { idle4.rx with state := .stopCheck, cnt := 1, bit := 5, shift := 1 } })).rx =
      { idle4.rx with state := .idle, cnt := 0, bit := 5, shift := 1, data := 1, ready := true } := by decide
/-- R51, example: FRAME = 28. -/
theorem test_break : (enginePhase (onLine false { idle4 with line := { idle4.line with lowcnt := 28 } })).line =
    { lowcnt := 29, brk := true, fe := true } := by decide
/-- R52, example. -/
theorem test_break_end :
    (enginePhase (onLine true { idle4 with line := { lowcnt := 29, brk := true, fe := true } })).line =
      { lowcnt := 0, brk := false, fe := false } ∧
    (enginePhase (onLine true { idle4 with line := { lowcnt := 29, brk := true, fe := true } })).sticky =
      { Sticky.none with fefall := true } := by decide
/-- R57, example. -/
theorem test_tx_stop :
    (enginePhase (onLine true { busy with tx := { busy.tx with state := .sendData, bit := 4, cnt := 1 } })).tx =
      { busy.tx with state := .sendStop, bit := 4, cnt := 4, lineOut := true } := by decide
/-- R77: the last power-on phase ends. -/
theorem test_power_on_end :
    (enginePhase (onLine true { idle4 with
      relay := { idle4.relay with state := .poweringOn, phase := 15, cnt := 1, loopRelay := true } })).relay =
      { idle4.relay with state := .enabled, loopRelay := true, acRelay := true } := by decide
/-- R40, T16 and T17 of 95 section 2.1. -/
theorem test_bit_times : firstSample 4 = 6 ∧ frameSteps 4 .five = 28 ∧ frameSteps 4 .eight = 40 ∧
    firstSample 1 = 1 ∧ frameSteps 1 .five = 7 := by decide
/-- 95 section 2.1, T5 to T8. -/
theorem test_baud_to_divisor : baudToDivisor Params.standard 110 = some 758 ∧
    baudToDivisor Params.standard 300 = some 278 ∧ baudToDivisor Params.standard 200000 = some 1 ∧
    baudToDivisor Params.standard 1 = some 65535 := by decide
/-- 95 section 2.1, T9 and T10; S5. -/
theorem test_divisor_to_baud : divisorToBaud Params.standard 1852 = some 45 ∧
    divisorToBaud Params.standard 65535 = some 1 ∧ divisorToBaud Params.standard 9999 = some 8 := by decide

-- ---------------------------------------------------------------- witnesses for the hypotheses of the obligations

/-- Short times: `DIV_DEFAULT` 1, a break of 2 steps, relay sequences of two phases of one step. -/
def small : Params :=
  { Params.standard with divDefault := 1, breakTicks := 2, phaseTicks := 1, onIters := 1, offIters := 1 }

/-- Its reset state with the line seen high. -/
def base : State := { State.resetWith small with rx := { (State.resetWith small).rx with prev := true } }

/-- A step's inputs: this line level, and this command word if one is given. -/
def inputOf (l : Bool) (w : Option Cmd) : StepInput :=
  { StepInput.quiet with lineIn := l, cmdValid := w.isSome, cmd := w.getD 0 }

/-- The next steps' inputs. -/
def feed (s : State) (l : List StepInput) : State := { s with inputs := l }

/-- A command presented in the step in progress. -/
def holding (s : State) (w : Cmd) : State := { s with inp := inputOf true (some w) }

/-- The state a result answers. -/
def out (s : State) (r : Result) : State :=
  match r with
  | .next t => t
  | _ => s

theorem witness_EncodeReadsBackDecode : decode 0x500457 = .ok (.setdiv 1111) := rfl
theorem witness_DecodeAcceptsExactlyTableRows : (⟨"DEC", 0xFFFFE0, 0x900000⟩ : OpcodeRow) ∈ opcodeTable := by decide
/-- Each condition at the boundary of its range, on either side. -/
theorem witness_AssembledLineIsItsWord :
    (255 < 256 ∧ ¬256 < 256) ∧ (7 < 8 ∧ ¬8 < 8) ∧ (0x1F00 % 256 = 0 ∧ 0x1F00 < 8192) ∧ ¬(1 % 256 = 0 ∧ 1 < 8192) ∧
    ¬(8192 % 256 = 0 ∧ 8192 < 8192) ∧ (65535 < 65536 ∧ ¬65536 < 65536) ∧ ((5 = 5 ∨ 5 = 8) ∧ (8 = 5 ∨ 8 = 8)) ∧
    ¬((6 = 5 ∨ 6 = 8) ∧ (8 = 5 ∨ 8 = 8)) ∧ (31 < 32 ∧ ¬32 < 32) ∧ (1 < 2 ∧ ¬2 < 2) ∧ (1 ≤ 1 ∧ ¬1 ≤ 0) := by decide
/-- R34, R35 and the encodings of 95: lines and the words they are. -/
theorem test_assemble :
    assemble Params.standard (.setwid 5 8) = some [.command (.setwid .five .eight)] ∧
    encode (.setwid .five .eight) = 0x600002 ∧
    assemble Params.standard (.setbaud 75) = some [.command (.setdiv 1111)] ∧ encode (.setdiv 1111) = 0x500457 ∧
    assemble Params.standard (.poll 0 1 65536) = none := by decide
theorem witness_StepRunsDecodedCommand :
    (feed base [inputOf true (some 0x100015)]).par.wf = true ∧
    (feed base [inputOf true (some 0x100015)]).performs (.txput 0x15) := ⟨by decide, rfl, rfl, rfl⟩
theorem witness_ReservedBitIsRefused :
    (feed base [inputOf true (some 0x100100)]).par.wf = true ∧
    (feed base [inputOf true (some 0x100100)]).nextInput.rst = false ∧
    (feed base [inputOf true (some 0x100100)]).nextInput.cmdValid = true ∧
    ∀ r ∈ opcodeTable, (feed base [inputOf true (some 0x100100)]).nextInput.cmd &&& r.mask ≠ r.pattern := by decide
theorem witness_ResetStepGivesResetValues :
    (feed busy [{ inputOf false (some 0x100015) with rst := true }]).par.wf = true ∧
    (feed busy [{ inputOf false (some 0x100015) with rst := true }]).nextInput.rst = true := by decide
theorem witness_RunsNeverStop : State.reset.par.wf = true := by decide
theorem witness_OnlyBadParametersAreRefused :
    { base with par := { small with onIters := 9 } }.par.wf = false := by decide
theorem witness_StickyBitsSetAndClear :
    ∃ t, step (feed full [inputOf true (some 0x401F00)]) = .next t ∧
      (feed full [inputOf true (some 0x401F00)]).nextInput.rst = false := ⟨_, rfl, rfl⟩
/-- Each of the five events happens in some step. -/
theorem witness_EventsOfAStep :
    (∃ t, step (feed { full with rx := { full.rx with state := .stopCheck, cnt := 1 } } [inputOf false none]) = .next t ∧
      t.ev.feev = true) ∧
    (∃ t, step (feed { full with rx := { full.rx with state := .stopCheck, cnt := 1 } } [inputOf true none]) = .next t ∧
      t.ev.ovr = true) ∧
    (∃ t, step (feed { base with line := { base.line with fe := true } } [inputOf true none]) = .next t ∧
      t.ev.fefall = true) ∧
    (∃ t, step (feed { base with hbrPrev := false } [{ StepInput.quiet with hostBrkIn := true }]) = .next t ∧
      t.ev.hbr = true) ∧
    (∃ t, step (feed busy [inputOf true (some 0x100001)]) = .next t ∧ t.ev.txrej = true) :=
  ⟨⟨_, rfl, rfl⟩, ⟨_, rfl, rfl⟩, ⟨_, rfl, rfl⟩, ⟨_, rfl, rfl⟩, ⟨_, rfl, rfl⟩⟩
/-- A refused word, a refused TXPUT, and an RXGET of nothing. -/
theorem witness_FailingCommandChangesNothing :
    (∃ t, commandPhase (holding base 0x100100) = .next t ∧ t.rspErr = true) ∧
    (∃ t, commandPhase (holding busy 0x100001) = .next t ∧ t.rspErr = true) ∧
    (∃ t, commandPhase (holding base 0x200000) = .next t ∧ t.rspErr = true) :=
  ⟨⟨_, rfl, rfl⟩, ⟨_, rfl, rfl⟩, ⟨_, rfl, rfl⟩⟩
/-- No command; a reserved bit; and a command on either side of each boundary of the rule. -/
theorem witness_ErrorCodesAndTheirCauses :
    (∃ t, commandPhase base = .next t ∧ base.inp.cmdValid = false ∧ t.rspErr = false) ∧
    (∃ t, commandPhase (holding base 0xF00002) = .next t ∧
      decode (holding base 0xF00002).inp.cmd = .error .reservedBits ∧ t.rspData = 1) ∧
    (∃ t, commandPhase (holding base 0x300005) = .next t ∧
      decode (holding base 0x300005).inp.cmd = .ok (.rdreg 5) ∧ t.rspErr = false) ∧
    (∃ t, commandPhase (holding base 0x300006) = .next t ∧
      decode (holding base 0x300006).inp.cmd = .ok (.rdreg 6) ∧ t.rspData = 2) ∧
    (∃ t, commandPhase (holding base 0xD18000) = .next t ∧
      decode (holding base 0xD18000).inp.cmd = .ok (.tblwr 6 .letters 0 0) ∧ t.rspErr = false) ∧
    (∃ t, commandPhase (holding base 0xD1C000) = .next t ∧
      decode (holding base 0xD1C000).inp.cmd = .ok (.tblwr 7 .letters 0 0) ∧ t.rspData = 2) :=
  ⟨⟨_, rfl, rfl, rfl⟩, ⟨_, rfl, rfl, rfl⟩, ⟨_, rfl, rfl, rfl⟩, ⟨_, rfl, rfl, rfl⟩, ⟨_, rfl, rfl, rfl⟩,
    ⟨_, rfl, rfl, rfl⟩⟩
/-- A command phase and a whole step without a command, the word of a SETUSOS left on `cmd`. -/
theorem witness_NopAnswersZero :
    base.inp.cmdValid = false ∧
    ∀ s ∈ [feed base [{ inputOf true none with cmd := 0xB00001 }]],
      s.par.wf = true ∧ s.nextInput.rst = false ∧ s.nextInput.cmdValid = false := by decide
/-- Reserved positions at 0 and not at 0; the decode tests and `test_reserved` give such words of every opcode. -/
theorem witness_readsAs :
    opcodeOf 0x100015 = 1 ∧ field 0x100015 8 12 = 0 ∧ opcodeOf 0x100115 = 1 ∧ field 0x100115 8 12 ≠ 0 ∧
    opcodeOf 0x401F00 = 4 ∧ field 0x401F00 13 7 = 0 ∧ field 0x401F00 0 8 = 0 ∧ field 0x402000 13 7 ≠ 0 ∧
    opcodeOf 0xE1FF00 = 14 ∧ field 0xE1FF00 17 3 = 0 ∧ field 0xE1FF01 0 8 ≠ 0 := by decide
theorem witness_DivisorLabelsFollowTableOrFormula :
    1 ≤ 45 ∧ (45, 1852) ∈ baudTable ∧ 1 ≤ 1 ∧ (∀ x ∈ baudTable, x.1 ≠ 1) ∧ (∀ x ∈ baudTable, x.2 ≠ 65535) ∧
    65535 ≤ 65535 ∧ 32768 ≤ { Params.standard with fStep := 32768 }.fStep := by decide

/-- A receiver in this state with this counter and bit index. -/
def rxAt (st : RxState) (cnt : BitVec 17) (bit : BitVec 4) (n : DataWidth) : State :=
  { base with rx := { base.rx with state := st, cnt := cnt, bit := bit, n := n } }

theorem witness_StartEdgeArmsReceiver :
    (onLine false base).rx.state = .idle ∧ (onLine false base).rx.prev = true ∧ (onLine false base).inp.lineIn = false ∧
    (rxAt .stopCheck 1 5 .five).rx.state ≠ .idle ∧
    ∃ t, step (feed base [inputOf false none]) = .next t ∧ t.rx.state = .startDetected :=
  ⟨rfl, rfl, rfl, by decide, _, rfl, rfl⟩
/-- Both clauses, and the last data bit of either width. -/
theorem witness_DataBitIsSampled :
    ((rxAt .startDetected 2 0 .five).rx.state = .startDetected ∧ (rxAt .startDetected 2 0 .five).rx.cnt ≠ 1) ∧
    ((rxAt .startDetected 1 0 .five).rx.state = .startDetected ∧ (rxAt .startDetected 1 0 .five).rx.cnt = 1) ∧
    ((rxAt .samplingBits 1 4 .five).rx.state = .samplingBits ∧
      (rxAt .samplingBits 1 4 .five).rx.bit.toNat + 1 = dataBits (rxAt .samplingBits 1 4 .five).rx.n) ∧
    (rxAt .samplingBits 1 7 .eight).rx.bit.toNat + 1 = dataBits (rxAt .samplingBits 1 7 .eight).rx.n := by decide
theorem witness_StopBitDecidesByte :
    ((rxAt .stopCheck 2 5 .five).rx.state = .stopCheck ∧ (rxAt .stopCheck 2 5 .five).rx.cnt ≠ 1) ∧
    ((onLine true (rxAt .stopCheck 1 5 .five)).rx.cnt = 1 ∧
      (onLine true (rxAt .stopCheck 1 5 .five)).inp.lineIn = true) ∧
    ((onLine false (rxAt .stopCheck 1 5 .five)).rx.cnt = 1 ∧
      (onLine false (rxAt .stopCheck 1 5 .five)).inp.lineIn = false) := by decide
/-- A high sample; and low ones whose count stays at a frame, exceeds it, and saturates, the last with a frame of eight
data bits in progress under a configured width of five. -/
theorem witness_HighLineEndsBreak :
    (onLine true base).inp.lineIn = true ∧ (onLine false base).inp.lineIn = false ∧
    ¬(dataBits idle4.rxWCfg + 2) * idle4.div.toNat < min (27 + 1) 1048575 ∧
    (dataBits idle4.rxWCfg + 2) * idle4.div.toNat < min (28 + 1) 1048575 ∧ min (1048575 + 1) 1048575 = 1048575 ∧
    (rxAt .samplingBits 2 3 .eight).rx.state ≠ .idle ∧
    dataBits (rxAt .samplingBits 2 3 .eight).rx.n ≠ dataBits (rxAt .samplingBits 2 3 .eight).rxWCfg := by decide
theorem witness_HostBreakRequestOnlyRecords :
    ∃ t, step (feed busy [inputOf true (some 0x700000)]) = .next t ∧
      (feed busy [inputOf true (some 0x700000)]).tx.state ≠ .sendBreak ∧ t.tx.state = .sendBreak :=
  ⟨_, rfl, by decide, rfl⟩
/-- A frame being received, and none; a TXPUT accepted under a new width. -/
theorem witness_WidthsLatchBetweenFrames :
    (∃ t, step (feed (rxAt .stopCheck 2 5 .five) [inputOf true (some 0x600003)]) = .next t ∧
      (rxAt .stopCheck 2 5 .five).rx.state ≠ .idle) ∧
    (∃ t, step (feed { base with txWCfg := .eight } [inputOf true (some 0x100001)]) = .next t ∧
      base.rx.state = .idle ∧ t.tx.n = .eight ∧ base.tx.n = .five) :=
  ⟨⟨_, rfl, by decide⟩, ⟨_, rfl, rfl, rfl, rfl⟩⟩
theorem witness_TxputTakesOrRefuses : base.tx.state = .idle ∧ busy.tx.state ≠ .idle := by decide
theorem witness_RxgetTakesByte : full.rx.ready = true ∧ base.rx.ready = false := by decide
theorem witness_SendbrkForcesLineLow :
    busy.tx.state ≠ .sendBreak ∧ (out base (exec .sendbrk base)).tx.state = .sendBreak := by decide
/-- The clauses of one step: a count, and each bit edge, at the last data bit of either width. -/
theorem witness_TransmittedFrameWaveform_step :
    base.tx.state = .idle ∧ (busy.tx.state ≠ .idle ∧ busy.tx.cnt ≠ 1) ∧
    ∀ st ∈ [TxState.sendStart, .sendData, .sendStop, .sendBreak], ∀ bit ∈ [(3 : BitVec 3), 4, 6, 7],
      { busy with tx := { busy.tx with state := st, cnt := 1, bit := bit } }.tx.cnt = 1 ∧
      (bit.toNat + 1 < dataBits .five ∨ dataBits .five ≤ bit.toNat + 1) ∧
      (bit.toNat + 1 < dataBits .eight ∨ dataBits .eight ≤ bit.toNat + 1) := by decide
/-- R57 after a mid-frame SETDIV: the next bit lasts the divisor then current. -/
theorem test_tx_bit_after_setdiv :
    (enginePhase (onLine true { busy with div := 2, tx := { busy.tx with state := .sendData, cnt := 1 } })).tx =
      { busy.tx with state := .sendData, bit := 1, cnt := 2, lineOut := true } := by decide
/-- The first step of a frame, its last and the step after it. -/
theorem witness_TransmittedFrameWaveform :
    base.par.wf = true ∧ base.div ≠ 0 ∧ base.tx.state = .idle ∧
    ∀ k ∈ [0, 6, 7], ∃ s₁, exec (.txput 0x15) (feed base (List.replicate 7 (inputOf true (some 0x300000)))) = .next s₁ ∧
      k ≤ frameSteps base.div base.txWCfg ∧ s₁.quietRun [5, 7] k ∧ s₁.quietRun [1] k :=
  ⟨by decide, by decide, rfl, fun k hk =>
    ⟨out base (exec (.txput 0x15) (feed base (List.replicate 7 (inputOf true (some 0x300000))))), rfl, by
      revert k; decide⟩⟩
theorem witness_BreakLastsBreakTicks :
    busy.tx.state ≠ .sendBreak ∧ { busy with par := small }.par.wf = true ∧
    ∀ k ∈ [0, 1, 2], ∃ s₁, exec .sendbrk (feed { busy with par := small } [inputOf true none, inputOf true none]) =
      .next s₁ ∧ k ≤ small.breakTicks.toNat ∧ s₁.quietRun [] k ∧ s₁.quietRun [1, 7] k :=
  ⟨by decide, by decide, fun k hk =>
    ⟨out base (exec .sendbrk (feed { busy with par := small } [inputOf true none, inputOf true none])), rfl, by
      revert k; decide⟩⟩

/-- The levels of a frame of 0x15 at one step a bit, start bit first, with this stop bit. -/
def frame15 (stop : Bool) : List Bool := [false, true, false, true, false, true, stop]

/-- A receiver that will see them. -/
def hearing (stop : Bool) : State := feed base ((frame15 stop).map (fun l => inputOf l none))

theorem witness_FrameOnLineIsReceived :
    ∀ stop : Bool, (hearing stop).par.wf = true ∧ (hearing stop).div ≠ 0 ∧ (hearing stop).rx.state = .idle ∧
      (hearing stop).rx.prev = true ∧
      (hearing stop).quietRun [5, 2] (stopSample (hearing stop).div (hearing stop).rxWCfg + 1) ∧
      ∀ j, j < stopSample (hearing stop).div (hearing stop).rxWCfg + 1 →
        ((hearing stop).inputs.map (·.lineIn))[j]? =
          some (frameLevel (hearing stop).div (hearing stop).rxWCfg 0x15 stop j) := by decide

/-- A transmitter of 0x15, with enough inputs for the frame. -/
def sending : State := out base (exec (.txput 0x15) (feed base (List.replicate 6 (inputOf true none))))

/-- The level it drives after `j` steps. -/
def levelAfter (j : Nat) : Option Bool :=
  match Host.Core.run Sys2Proof.core j sending with
  | .next u => some u.tx.lineOut
  | _ => none

theorem levelAfter_frame : ∀ j, j < 7 → ((hearing true).inputs.map (·.lineIn))[j]? = levelAfter j := by decide

theorem witness_SentByteIsReceived :
    exec (.txput 0x15) (feed base (List.replicate 6 (inputOf true none))) = .next sending ∧
    sending.quietRun [5, 7] (stopSample base.div base.txWCfg) ∧ (hearing true).div = base.div ∧
    (hearing true).rxWCfg = base.txWCfg ∧
    (hearing true).quietRun [5, 2] (stopSample base.div base.txWCfg + 1) ∧
    ∀ (j : Nat) (u : State), j ≤ stopSample base.div base.txWCfg → runsTo j sending u →
      ((hearing true).inputs.map (·.lineIn))[j]? = some u.tx.lineOut := by
  refine ⟨rfl, by decide, by decide, by decide, by decide, fun j u hj hu => ?_⟩
  have h : stopSample base.div base.txWCfg = 6 := by decide
  rw [levelAfter_frame j (by omega), levelAfter, show Host.Core.run Sys2Proof.core j sending = .next u from hu]

/-- A low line of exactly one frame, and of one step more. -/
theorem witness_LowLineBecomesBreak :
    ∀ k ∈ [0, 7, 8],
      (feed base (List.replicate 8 (inputOf false none))).par.wf = true ∧
      (feed base (List.replicate 8 (inputOf false none))).line = { lowcnt := 0, brk := false, fe := false } ∧
      (feed base (List.replicate 8 (inputOf false none))).rx.n =
        (feed base (List.replicate 8 (inputOf false none))).rxWCfg ∧
      (feed base (List.replicate 8 (inputOf false none))).quietRun [5, 6] k ∧
      ∀ i ∈ (feed base (List.replicate 8 (inputOf false none))).inputs.take k, i.lineIn = false := by decide

/-- Found in the current bank, only in the other one, in neither. -/
theorem witness_EncTranslates :
    base.find base.codec.sel (bankOf base.codec.sendShift) 0x41 = some 3 ∧
    (base.find base.codec.sel (bankOf base.codec.sendShift) 0x33 = none ∧
      base.find base.codec.sel (bankOf (otherShift base.codec.sendShift)) 0x33 ≠ none) ∧
    (base.find base.codec.sel (bankOf base.codec.sendShift) 0x61 = none ∧
      base.find base.codec.sel (bankOf (otherShift base.codec.sendShift)) 0x61 = none) := by decide
/-- The two control codes, an unused slot, a used one. -/
theorem witness_DecTranslates :
    base.par.ltrsCode = 0x1B ∧ (0x1F : Code) ≠ base.par.ltrsCode ∧ (0x1F : Code) = base.par.figsCode ∧
    (0x00 : Code) ≠ base.par.ltrsCode ∧ (0x00 : Code) ≠ base.par.figsCode ∧
    base.tblRead base.codec.sel (bankOf base.codec.recvShift) 0x00 = base.par.unused ∧
    base.tblRead base.codec.sel (bankOf base.codec.recvShift) 0x01 ≠ base.par.unused := by decide
theorem witness_ControlSlotsAreNeverUsed :
    (0x1B : Code) = base.par.ltrsCode ∧ (∃ t, exec (.enc 0x41) base = .next t) ∧
    (0x1F : Code) = base.par.figsCode ∧ (∃ t, exec (.dec 0x1F) base = .next t) := ⟨rfl, ⟨_, rfl⟩, rfl, ⟨_, rfl⟩⟩
/-- The reserved selector, the last table and the first, and an address that is not the slot's. -/
theorem witness_TblwrWritesOneByte :
    (7 : BitVec 3) = 7 ∧ (6 : Fin 7).val = (6 : BitVec 3).toNat ∧ (0 : Fin 7).val = (0 : BitVec 3).toNat ∧
    447 ≠ slotAddr 0 .figures 31 ∧ slotAddr 6 .figures 31 = 447 ∧ base.tbl.wf base.par := by decide
theorem witness_TblrdReadsWithoutEffect :
    (7 : BitVec 3) = 7 ∧ (6 : Fin 7).val = (6 : BitVec 3).toNat := by decide
/-- A step without a TBLWR, one with a TBLWR of table 6, and one with the reserved selector. -/
theorem witness_OnlyTblwrWritesTheTable :
    (∃ t, step (feed base [inputOf true none]) = .next t ∧ (feed base [inputOf true none]).nextInput.rst = false ∧
      ∀ n k i b, ¬(feed base [inputOf true none]).performs (.tblwr n k i b)) ∧
    (∃ t, step (feed base [inputOf true (some 0xD1BFFF)]) = .next t ∧
      (feed base [inputOf true (some 0xD1BFFF)]).performs (.tblwr 6 .figures 31 0xFF) ∧
      ∀ n : Fin 7, n.val = (6 : BitVec 3).toNat → 0 ≠ slotAddr n .figures 31) ∧
    (∃ t, step (feed base [inputOf true (some 0xD1C000)]) = .next t ∧
      (feed base [inputOf true (some 0xD1C000)]).performs (.tblwr 7 .letters 0 0) ∧
      ∀ n : Fin 7, n.val ≠ (7 : BitVec 3).toNat) := by
  refine ⟨⟨_, rfl, rfl, fun n k i b h => ?_⟩, ⟨_, rfl, ⟨rfl, rfl, rfl⟩, by decide⟩, ⟨_, rfl, ⟨rfl, rfl, rfl⟩, by decide⟩⟩
  have : false = true := h.2.1
  contradiction
/-- A letter in the letters shift, and a figure, which takes the shift code first. -/
theorem witness_EncThenDecRoundTrips :
    base.par.wf = true ∧ base.codec.sendShift = base.codec.recvShift ∧
    base.find base.codec.sel .letters 0x41 ≠ none ∧ base.find base.codec.sel .figures 0x33 ≠ none := by decide

/-- A sequencer at rest with the power on. -/
def powered : State := { base with relay := { base.relay with state := .enabled, loopRelay := true, acRelay := true } }

theorem witness_RelayStartsOrRefuses :
    base.relay.state = .off ∧ powered.relay.state = .enabled ∧
    (out base (exec (.relay true) base)).relay.state = .poweringOn ∧
    (out base (exec (.relay false) powered)).relay.state = .poweringOff := by decide
/-- The first step of a sequence, a step within it and its end. -/
theorem witness_PowerOnTakesItsTime :
    base.par.wf = true ∧ base.relay.state = .off ∧ base.relay.legal base.par ∧
    ∀ k ∈ [0, 1, 2], ∃ s₁, exec (.relay true) (feed base [inputOf true none, inputOf true none]) = .next s₁ ∧
      k ≤ 2 * base.par.onIters * base.par.phaseTicks.toNat ∧ s₁.quietRun [] k ∧ s₁.quietRun [15] k :=
  ⟨by decide, rfl, by decide, fun k hk =>
    ⟨out base (exec (.relay true) (feed base [inputOf true none, inputOf true none])), rfl, by revert k; decide⟩⟩
theorem witness_PowerOffTakesItsTime :
    powered.par.wf = true ∧ powered.relay.state = .enabled ∧ powered.relay.legal powered.par ∧
    ∀ k ∈ [0, 1, 2], ∃ s₁, exec (.relay false) (feed powered [inputOf true none, inputOf true none]) = .next s₁ ∧
      k ≤ 2 * powered.par.offIters * powered.par.phaseTicks.toNat ∧ s₁.quietRun [] k ∧ s₁.quietRun [15] k :=
  ⟨by decide, rfl, by decide, fun k hk =>
    ⟨out base (exec (.relay false) (feed powered [inputOf true none, inputOf true none])), rfl, by
      revert k; decide⟩⟩
/-- A step whose command shows the sequencer, and one whose command does not. -/
theorem witness_RelayIsReadByNoOtherUnit :
    (∃ t, step (feed base [inputOf true (some 0x300004)]) = .next t ∧
      ∀ on, ¬(feed base [inputOf true (some 0x300004)]).performs (.relay on)) ∧
    (∃ t, step (feed base [inputOf true none]) = .next t ∧
      (∀ on, ¬(feed base [inputOf true none]).performs (.relay on)) ∧
      ¬(feed base [inputOf true none]).performs (.rdreg 4)) := by
  refine ⟨⟨_, rfl, fun on h => ?_⟩, ⟨_, rfl, fun on h => ?_, fun h => ?_⟩⟩
  · have : (Except.ok (.rdreg 4) : Except DecodeError Instr) = .ok (.relay on) := h.2.2
    cases this
  · exact absurd h.2.1 (by decide)
  · exact absurd h.2.1 (by decide)
theorem witness_ForcedAndModeAreOnlyRead :
    (∃ t i rest, (feed base [inputOf true (some 0x300000)]).inputs = i :: rest ∧
      step (feed base [inputOf true (some 0x300000)]) = .next t) ∧
    (∃ t i rest, (feed base [inputOf true none]).inputs = i :: rest ∧ step (feed base [inputOf true none]) = .next t ∧
      ∀ c, ¬(feed base [inputOf true none]).performs c) :=
  ⟨⟨_, _, _, rfl, rfl⟩, ⟨_, _, _, rfl, rfl, fun _ h => absurd h.2.1 (by decide)⟩⟩
/-- The clauses of one step of the sequencer at the boundaries of their ranges (`ON_ITERS` 8, `OFF_ITERS` 6): at rest, a
count, the last phase that another follows, the last phase. -/
theorem witness_StepKeepsRelayTable_step :
    base.relay.state = .off ∧ powered.relay.state = .enabled ∧
    (∃ t, step (feed powered [inputOf true none]) = .next t ∧
      (feed powered [inputOf true none]).nextInput.rst = false) ∧
    { idle4.relay with state := .poweringOn, cnt := 2 }.cnt ≠ 1 ∧
    (14 : BitVec 4).toNat + 1 < 2 * idle4.par.onIters ∧ 2 * idle4.par.onIters ≤ (15 : BitVec 4).toNat + 1 ∧
    (10 : BitVec 4).toNat + 1 < 2 * idle4.par.offIters ∧ 2 * idle4.par.offIters ≤ (11 : BitVec 4).toNat + 1 := by
  refine ⟨rfl, rfl, ⟨_, rfl, rfl⟩, ?_⟩
  decide
/-- R36, R76: the ports of a sequencer whose two relays differ. -/
theorem test_outputs :
    { idle4 with relay := { idle4.relay with state := .poweringOn, loopRelay := true } }.outputs =
      { rspErr := false, rspData := 0, lineOut := true, loopRelay := true, acRelay := false,
        ledA := false, ledB := false } := by decide
/-- The premises of the six invariants, in a state in which every unit is at work. -/
theorem witness_StepKeepsLegal :
    ∃ s t, s.div ≠ 0 ∧ s.rx.legal ∧ s.line.legal s.rx.prev ∧ s.tx.legal ∧ s.relay.legal s.par ∧ s.tbl.wf s.par ∧
      s.rx.state = .samplingBits ∧ s.tx.state = .sendData ∧ s.relay.state = .poweringOn ∧ s.tbl ≠ [] ∧
      step s = .next t := by
  refine ⟨feed { base with
    rx := { base.rx with state := .samplingBits, cnt := 3, bit := 2, prev := false }
    line := { lowcnt := 4, brk := false, fe := false }
    tx := { base.tx with state := .sendData, cnt := 1, bit := 1, shift := 0x02, lineOut := true }
    relay := { base.relay with state := .poweringOn, phase := 0, cnt := 1, loopRelay := true, ledA := true, ledB := true }
    tbl := [(3, 0x42), (64, 0x41)] } [inputOf false none], _, ?_, ?_, ?_, ?_, ?_, ?_, rfl, rfl, rfl, ?_, rfl⟩ <;> decide
theorem witness_ResetIsLegal : Params.standard.wf = true ∧ small.wf = true := by decide

end Sys2Proof.Tests
end

/-! The reserved bits of a command word (R30, R31): the decoder's reserved fields against the masks of
opcode_table.json, and O7. -/

namespace Sys2Proof.Proofs.ReservedBits

open Sys2Proof Sys2Proof.Machine

/-- The mask of `cmd[lo + len - 1 : lo]`. -/
def fieldMask (lo len : Nat) : Cmd := (BitVec.allOnes len).setWidth 24 <<< lo

/-- The reserved fields of an opcode's pattern, each as its lowest position and its length (R30). -/
def reservedFields (op : BitVec 4) : List (Nat × Nat) :=
  match op.toNat with
  | 0 | 2 | 7 => [(0, 20)]
  | 1 | 8 | 12 => [(8, 12)]
  | 3 => [(3, 17)]
  | 4 => [(13, 7), (0, 8)]
  | 5 => [(16, 4)]
  | 6 | 10 => [(2, 18)]
  | 9 => [(5, 15)]
  | 13 => [(17, 3)]
  | 14 => [(17, 3), (0, 8)]
  | _ => [(1, 19)]

/-- The mask of an opcode and these reserved fields. -/
def maskOf (fields : List (Nat × Nat)) : Cmd :=
  fields.foldr (fun f m => fieldMask f.1 f.2 ||| m) (fieldMask 20 4)

theorem and_fieldMask (w : Cmd) (lo len : Nat) :
    w &&& fieldMask lo len = (field w lo len).setWidth 24 <<< lo := by
  ext i hi
  by_cases hlo : i < lo
  · simp [fieldMask, hlo]
  · have hpos : lo + (i - lo) = i := by omega
    have hbit : i - lo < 24 := by omega
    simp [fieldMask, field, hlo, hpos, hi, hbit, Bool.and_comm, ← BitVec.getLsbD_eq_getElem]

theorem and_fieldMask_eq_zero {w : Cmd} {lo len : Nat} (h : field w lo len = 0) : w &&& fieldMask lo len = 0 := by
  rw [and_fieldMask, h]
  simp

/-- A word whose reserved fields are 0 shows nothing but its opcode under their mask. -/
theorem and_maskOf (w : Cmd) (fields : List (Nat × Nat)) (h : ∀ f ∈ fields, field w f.1 f.2 = 0) :
    w &&& maskOf fields = (opcodeOf w).setWidth 24 <<< 20 := by
  induction fields with
  | nil => exact and_fieldMask w 20 4
  | cons f fs ih =>
    obtain ⟨hf, hfs⟩ := List.forall_mem_cons.1 h
    calc w &&& maskOf (f :: fs)
        = (w &&& fieldMask f.1 f.2) ||| (w &&& maskOf fs) := BitVec.and_or_distrib_left
      _ = (opcodeOf w).setWidth 24 <<< 20 := by rw [and_fieldMask_eq_zero hf, ih hfs]; simp

/-- The decoder's test is that every reserved field of the word's opcode is 0. -/
theorem reservedZero_iff (w : Cmd) :
    reservedZero w = true ↔ ∀ f ∈ reservedFields (opcodeOf w), field w f.1 f.2 = 0 := by
  unfold reservedZero reservedFields
  split <;> simp_all

/-- Every opcode has its row, whose mask is the opcode's bits and its reserved fields (R30, R32). -/
theorem opcodeTable_row : ∀ op : BitVec 4, ∃ r ∈ opcodeTable,
    r.mask = maskOf (reservedFields op) ∧ r.pattern = op.setWidth 24 <<< 20 := by decide

/-- A word that is no row of the opcode table does not decode (R31). -/
theorem decode_error_of_no_row (w : Cmd) (h : ∀ r ∈ opcodeTable, w &&& r.mask ≠ r.pattern) :
    decode w = .error .reservedBits := by
  have hreserved : ¬ reservedZero w = true := fun hz => by
    obtain ⟨r, hr, hmask, hpattern⟩ := opcodeTable_row (opcodeOf w)
    apply h r hr
    rw [hmask, hpattern, and_maskOf w _ ((reservedZero_iff w).1 hz)]
  exact if_neg hreserved

/-- A step that presents a word the decoder refuses raises `RSVD_BITS` on the state its engine phase left (R31, R36). -/
theorem step_of_decode_error (s : State) (hwf : s.par.wf = true) (hrst : s.nextInput.rst = false)
    (hvalid : s.nextInput.cmdValid = true) (hdecode : decode s.nextInput.cmd = .error .reservedBits) :
    step s = .next ((enginePhase s.takeInput).raise .rsvdBits) := by
  have hcommand : commandPhase (enginePhase s.takeInput) = .next ((enginePhase s.takeInput).raise .rsvdBits) := by
    simp [commandPhase, hvalid, hdecode]
  simp [step, runStep, hwf, hrst, hcommand]

/-- Settles O7: a word of no row does not decode, and the step raises before any command's own check. -/
theorem reservedBitIsRefused : Obligations.ReservedBitIsRefused := by
  intro s hwf hrst hvalid hrow
  exact step_of_decode_error s hwf hrst hvalid (decode_error_of_no_row _ hrow)

end Sys2Proof.Proofs.ReservedBits

/-! The Bit-Timing Engine: the set and clear rule of the sticky bits (R38), NOP (R41), SETDIV (R42) and the divisor
label functions (R43, R44). -/

namespace Sys2Proof.Proofs.BitTiming

open Sys2Proof Sys2Proof.Machine Sys2Proof.Proofs.ReservedBits

-- ---------------------------------------------------------------- sticky bits (R38)

@[simp] theorem get_none (b : StickyBit) : Sticky.none.get b = false := by cases b <;> rfl

@[simp] theorem get_set (x : Sticky) (b c : StickyBit) : (x.set c).get b = (x.get b || decide (b = c)) := by
  cases b <;> cases c <;> simp [Sticky.set, Sticky.get]

@[simp] theorem get_clear (x ev : Sticky) (mask : BitVec 5) (b : StickyBit) :
    (x.clear ev mask).get b = ((x.get b && !mask.getLsbD b.index) || ev.get b) := by cases b <;> rfl

/-- Between the phases: an engine phase that begins without events adds its events to the sticky bits. -/
theorem enginePhase_sticky_get (s : State) (hev : s.ev = Sticky.none) (b : StickyBit) :
    (enginePhase s).sticky.get b = (s.sticky.get b || (enginePhase s).ev.get b) := by
  rw [enginePhase_sticky, enginePhase_ev, hev]
  cases b <;> simp [Sticky.get, Sticky.none]

/-- The sticky bits a command names for clearing (R65): those of a CLRST's mask, none for any other. -/
def maskOfInstr : Instr → BitVec 5
  | .clrst m => m
  | _ => 0

theorem maskOfInstr_of_ne_clrst {i : Instr} (h : ∀ m, i ≠ .clrst m) : maskOfInstr i = 0 := by
  unfold maskOfInstr
  split
  · exact absurd rfl (h _)
  · rfl

theorem clearMask_of_no_command {i : StepInput} (hv : i.cmdValid = false) : clearMask i = 0 := by
  simp [clearMask, hv]

theorem clearMask_of_decode_error {i : StepInput} {e : DecodeError} (hd : decode i.cmd = .error e) :
    clearMask i = 0 := by
  simp [clearMask, hd]

theorem clearMask_of_decode {i : StepInput} {c : Instr} (hv : i.cmdValid = true) (hd : decode i.cmd = .ok c) :
    clearMask i = maskOfInstr c := by
  cases c <;> simp [clearMask, maskOfInstr, hv, hd]

/-- A command keeps every event, and leaves a sticky bit as it was unless it clears it or an event sets it. The premise
is what the engine phase leaves: the events so far are in the sticky bits. -/
theorem exec_sticky_get {i : Instr} {s t : State} (h : exec i s = .next t) (b : StickyBit)
    (hev : s.ev.get b = true → s.sticky.get b = true) :
    t.sticky.get b = ((s.sticky.get b && !(maskOfInstr i).getLsbD b.index) || t.ev.get b) ∧
    (s.ev.get b = true → t.ev.get b = true) := by
  have hnoclear : s.sticky.get b = ((s.sticky.get b && !(0 : BitVec 5).getLsbD b.index) || s.ev.get b) := by
    cases he : s.ev.get b <;> simp_all
  rcases exec_sticky i s t h with ⟨hne, hst, hacc⟩ | ⟨m, rfl, hst⟩ | ⟨v, rfl, hbusy, hst⟩ <;>
    rcases exec_ev _ s t h with ⟨htx, hbusy', he⟩ | ⟨hno, he⟩
  · exact absurd ⟨htx, hbusy'⟩ hacc
  · rw [hst, he, maskOfInstr_of_ne_clrst hne]
    exact ⟨hnoclear, id⟩
  · simp at htx
  · simp [hst, he, maskOfInstr]
  · rw [hst, he, get_set, get_set, ← Bool.or_assoc]
    exact ⟨congrArg (· || decide (b = .txrej)) hnoclear, fun hold => by rw [hold, Bool.true_or]⟩
  · exact absurd ⟨⟨v, rfl⟩, hbusy⟩ hno

/-- The same for every way a step without reset can end its command phase. -/
theorem step_sticky_get {s t : State} (h : step s = .next t) (hrst : s.nextInput.rst = false) (b : StickyBit)
    (hev : (enginePhase s.takeInput).ev.get b = true → (enginePhase s.takeInput).sticky.get b = true) :
    t.sticky.get b = (((enginePhase s.takeInput).sticky.get b && !(clearMask s.nextInput).getLsbD b.index) ||
      t.ev.get b) ∧
    ((enginePhase s.takeInput).ev.get b = true → t.ev.get b = true) := by
  obtain ⟨-, ⟨hr, -⟩ | ⟨-, hv, rfl⟩ | ⟨-, hv, hd, rfl⟩ | ⟨-, hv, i, hd, he⟩⟩ := step_cases s t h
  · simp [hrst] at hr
  · rw [clearMask_of_no_command hv]
    simpa using hev
  · rw [clearMask_of_decode_error hd]
    simpa using hev
  · rw [clearMask_of_decode hv hd]
    exact exec_sticky_get he b hev

/-- Settles O12: the engine phase adds its events, and the command phase clears before it keeps them. -/
theorem stickyBitsSetAndClear : Obligations.StickyBitsSetAndClear := by
  intro s t b h hrst
  have hengine := enginePhase_sticky_get s.takeInput (takeInput_ev s) b
  obtain ⟨hstep, hkept⟩ := step_sticky_get h hrst b fun he => by rw [hengine, he, Bool.or_true]
  refine ⟨?_, by simpa using hengine⟩
  rw [hstep, hengine, takeInput_sticky]
  cases he : (enginePhase s.takeInput).ev.get b
  · rw [Bool.or_false]
  · simp [hkept he]

-- ---------------------------------------------------------------- the encoding of one opcode (R30, R31)

/-- A command's encoding and refusal from its row of R30: its reserved fields and its operands. -/
theorem readsAs_of_fields {op : BitVec 4} {reservedOk : Cmd → Prop} {c : Cmd → Instr}
    (hreserved : ∀ w, (∀ f ∈ reservedFields op, field w f.1 f.2 = 0) ↔ reservedOk w)
    (hoperands : ∀ w, opcodeOf w = op → operands w = c w) : readsAs op reservedOk c := by
  intro w hop
  have hzero : reservedZero w = true ↔ reservedOk w := by rw [reservedZero_iff, hop, hreserved]
  refine ⟨fun hok => ?_, fun hbad => ?_⟩
  · rw [decode, if_pos (hzero.2 hok), hoperands w hop]
  · rw [decode, if_neg (mt hzero.1 hbad)]

theorem readsAs_nop : readsAs 0 (fun w => field w 0 20 = 0) (fun _ => .nop) :=
  readsAs_of_fields (fun w => by simp [reservedFields]) (fun w hop => by rw [operands, hop]; rfl)

theorem readsAs_setdiv : readsAs 5 (fun w => field w 16 4 = 0) (fun w => .setdiv (field w 0 16)) :=
  readsAs_of_fields (fun w => by simp [reservedFields]) (fun w hop => by rw [operands, hop]; rfl)

-- ---------------------------------------------------------------- NOP (R41)

theorem exec_nop (s : State) : exec .nop s = .next (s.respond 0) := rfl

theorem commandPhase_of_no_command (s : State) (hv : s.inp.cmdValid = false) :
    commandPhase s = .next (s.respond 0) := by
  simp [commandPhase, hv, exec_nop]

/-- A step without a reset is its command phase on what its engine phase left (R36). -/
theorem step_of_no_reset (s : State) (hwf : s.par.wf = true) (hrst : s.nextInput.rst = false) :
    step s = commandPhase (enginePhase s.takeInput) := by
  simp [step, runStep, hwf, hrst]

/-- Settles O18. -/
theorem nopAnswersZero : Obligations.NopAnswersZero := by
  refine ⟨exec_nop, commandPhase_of_no_command, fun s hwf hrst hv => ?_, readsAs_nop⟩
  rw [step_of_no_reset s hwf hrst]
  exact commandPhase_of_no_command _ (by simpa using hv)

-- ---------------------------------------------------------------- SETDIV (R42)

theorem exec_setdiv (v : BitVec 16) (s : State) :
    exec (.setdiv v) s =
      .next ({ s with div := divisorOf s.par v, rx := restartRx (divisorOf s.par v) s.rx,
                      tx := restartTx (divisorOf s.par v) s.tx }.respond (divisorOf s.par v)) := rfl

/-- SETDIV writes nothing of the receive machine but its counter, and that in a frame only. -/
theorem restartRx_eq (d : BitVec 16) (rx : Rx) :
    restartRx d rx = { rx with cnt := if rx.state = .idle then rx.cnt else d.setWidth 17 } := by
  unfold restartRx
  split <;> rfl

/-- SETDIV writes nothing of the transmit machine but its counter, and that neither in `IDLE` nor in a break. -/
theorem restartTx_eq (d : BitVec 16) (tx : Tx) :
    restartTx d tx = { tx with cnt :=
      if tx.state = .sendStart ∨ tx.state = .sendData ∨ tx.state = .sendStop then d.setWidth 17 else tx.cnt } := by
  obtain ⟨state, cnt, bit, shift, n, lineOut⟩ := tx
  cases state <;> rfl

/-- Settles O19: one equation for the counter of each direction. -/
theorem setdivLoadsAndRestarts : Obligations.SetdivLoadsAndRestarts := by
  refine ⟨fun v s => ?_, readsAs_setdiv⟩
  rw [exec_setdiv, restartRx_eq, restartTx_eq]
  rfl

-- ---------------------------------------------------------------- divisor labels (R43, R44)

/-- No rate stands twice in the label table, so a search by rate finds the entry of the rate. -/
theorem baudTable_find_rate : ∀ x ∈ baudTable, baudTable.find? (fun y => y.1 == x.1) = some x := by decide

/-- No divisor stands twice in the label table. -/
theorem baudTable_find_divisor : ∀ x ∈ baudTable, baudTable.find? (fun y => y.2 == x.2) = some x := by decide

theorem baudToDivisor_of_mem (p : Params) {r d : Nat} (hr : 1 ≤ r) (h : (r, d) ∈ baudTable) :
    baudToDivisor p r = some d := by
  rw [baudToDivisor, if_neg (by omega), baudTable_find_rate (r, d) h]

theorem baudToDivisor_of_not_mem (p : Params) {r : Nat} (hr : 1 ≤ r) (h : ∀ d, (r, d) ∉ baudTable) :
    baudToDivisor p r = some (max 1 (min 65535 ((p.fStep + r / 2) / r))) := by
  have hfind : baudTable.find? (fun x => x.1 == r) = none :=
    List.find?_eq_none.2 fun x hx hxr => h x.2 (beq_iff_eq.1 hxr ▸ hx)
  rw [baudToDivisor, if_neg (by omega), hfind, clampDivisor]

theorem divisorToBaud_of_mem (p : Params) {r d : Nat} (hd : 1 ≤ d) (h : (r, d) ∈ baudTable) :
    divisorToBaud p d = some r := by
  rw [divisorToBaud, if_neg (by omega), baudTable_find_divisor (r, d) h]

theorem divisorToBaud_of_not_mem (p : Params) {d : Nat} (hd : 1 ≤ d) (h : ∀ r, (r, d) ∉ baudTable) :
    divisorToBaud p d = some ((p.fStep + d / 2) / d) := by
  have hfind : baudTable.find? (fun x => x.2 == d) = none :=
    List.find?_eq_none.2 fun x hx hxd => h x.1 (beq_iff_eq.1 hxd ▸ hx)
  rw [divisorToBaud, if_neg (by omega), hfind]

/-- R44: the rounded quotient is at least 1 because `F_STEP` is at least `d - d div 2`. -/
theorem label_pos {f d : Nat} (hd : 1 ≤ d) (hmax : d ≤ 65535) (hf : 32768 ≤ f) : 1 ≤ (f + d / 2) / d :=
  (Nat.one_le_div_iff hd).2 (by omega)

/-- Settles O20. -/
theorem divisorLabelsFollowTableOrFormula : Obligations.DivisorLabelsFollowTableOrFormula :=
  ⟨rfl, fun _ => rfl,
    fun p _ hr => ⟨fun _ => baudToDivisor_of_mem p hr, baudToDivisor_of_not_mem p hr⟩,
    fun p _ hd => ⟨fun _ => divisorToBaud_of_mem p hd, divisorToBaud_of_not_mem p hd, label_pos hd⟩,
    rfl⟩

end Sys2Proof.Proofs.BitTiming

/-! The Soft-UART Framer: the start edge (R46, R47), the line condition (R51, R52), the host-break request (R54), and
the commands TXPUT, RXGET, RDREG and CLRST (R60, R61, R64, R65). -/

namespace Sys2Proof.Proofs.Framer

open Sys2Proof Sys2Proof.Machine Sys2Proof.Proofs.ReservedBits Sys2Proof.Proofs.BitTiming

-- ---------------------------------------------------------------- start edge (R46, R47)

theorem rxIdle_eq (d : BitVec 16) (cfg : DataWidth) (lineIn : Bool) (rx : Rx) :
    rxIdle d cfg lineIn rx =
      if rx.prev = true ∧ lineIn = false then
        { rx with n := cfg, state := .startDetected, cnt := BitVec.ofNat 17 (firstSample d), bit := 0, shift := 0 }
      else { rx with n := cfg } := by
  simp [rxIdle]

theorem rxTick_of_idle (d : BitVec 16) (cfg : DataWidth) (lineIn : Bool) {rx : Rx} (h : rx.state = .idle) :
    rxTick d cfg lineIn rx = rxIdle d cfg lineIn rx := by
  simp [rxTick, h]

/-- The engine phase of a receiver in `IDLE`: the start-edge rule, then the line history (R53). -/
theorem enginePhase_rx_of_idle (s : State) (h : s.rx.state = .idle) :
    (enginePhase s).rx =
      if s.rx.prev = true ∧ s.inp.lineIn = false then
        { s.rx with n := s.rxWCfg, state := .startDetected, cnt := BitVec.ofNat 17 (firstSample s.div),
                    bit := 0, shift := 0, prev := false }
      else { s.rx with n := s.rxWCfg, prev := s.inp.lineIn } := by
  rw [enginePhase_rx, rxTick_of_idle _ _ _ h, rxIdle_eq]
  split
  · next hedge => rw [hedge.2]
  · rfl

/-- The receive machine is in `START_DETECTED` only in a frame it had begun, or after a start edge in `IDLE`: the sample
points lead to later states. -/
theorem startDetected_of_rxTick {d : BitVec 16} {cfg : DataWidth} {lineIn : Bool} {rx : Rx}
    (h : (rxTick d cfg lineIn rx).state = .startDetected) :
    rx.state = .startDetected ∨ (rx.state = .idle ∧ rx.prev = true ∧ lineIn = false) := by
  obtain ⟨hidle, he⟩ | ⟨-, -, he⟩ | ⟨-, -, he⟩ | ⟨-, -, he⟩ := rxTick_cases d cfg lineIn rx <;> rw [he] at h
  · rw [rxIdle_eq] at h
    split at h
    · next hedge => exact .inr ⟨hidle, hedge⟩
    · exact absurd (hidle.symm.trans h) (by decide)
  · exact .inl h
  · by_cases hlast : rx.bit.toNat + 1 = dataBits rx.n <;> simp [rxSample, hlast] at h
  · cases lineIn <;> simp [rxStop] at h

@[simp] theorem restartRx_state (d : BitVec 16) (rx : Rx) : (restartRx d rx).state = rx.state := by
  rw [restartRx_eq]

/-- No command moves the receive machine to another state. -/
theorem exec_rx_state {i : Instr} {s t : State} (h : exec i s = .next t) : t.rx.state = s.rx.state := by
  obtain hrx | ⟨-, -, hrx⟩ | ⟨v, -, hrx⟩ := exec_rx i s t h <;> simp [hrx]

/-- The receive machine's state after a step is `IDLE` after a reset, and else what the engine phase left. -/
theorem step_rx_state {s t : State} (h : step s = .next t) :
    t.rx.state = .idle ∨ t.rx.state = (rxTick s.div s.rxWCfg s.nextInput.lineIn s.rx).state := by
  obtain ⟨-, ⟨-, rfl⟩ | ⟨-, -, rfl⟩ | ⟨-, -, -, rfl⟩ | ⟨-, -, i, -, he⟩⟩ := step_cases s t h
  · exact .inl rfl
  · exact .inr (by simp)
  · exact .inr (by simp)
  · exact .inr (by simp [exec_rx_state he])

/-- Settles O21: the start-edge rule is the receive machine's in `IDLE`, and the only way into `START_DETECTED`. -/
theorem startEdgeArmsReceiver : Obligations.StartEdgeArmsReceiver := by
  refine ⟨enginePhase_rx_of_idle, fun s hbusy => ?_, fun s t h hstart => ?_⟩
  · simp [rxTick_n, hbusy]
  · obtain hidle | htick := step_rx_state h
    · exact absurd (hstart.symm.trans hidle) (by decide)
    · exact startDetected_of_rxTick (htick.symm.trans hstart)

-- ---------------------------------------------------------------- line condition (R51, R52)

/-- R49: a framing error is a low sample at the stop-bit sample point. -/
theorem rxOutcome_framingError_iff (lineIn : Bool) (rx : Rx) :
    rxOutcome lineIn rx = .framingError ↔ (rx.state = .stopCheck ∧ rx.cnt = 1) ∧ lineIn = false := by
  simp only [rxOutcome, sub_one_eq_zero]
  split
  · next hstop => cases lineIn <;> simp [hstop]
  · next hstop => exact ⟨nofun, fun h => absurd h.1 hstop⟩

theorem engineRx_line_lowcnt (s : State) : (engineRx s).line.lowcnt = s.line.lowcnt := by
  rw [engineRx_line]; split <;> rfl

theorem engineRx_line_brk (s : State) : (engineRx s).line.brk = s.line.brk := by
  rw [engineRx_line]; split <;> rfl

theorem engineRx_line_fe_of_low (s : State) (hlow : s.inp.lineIn = false) :
    (engineRx s).line.fe = true ↔ s.line.fe = true ∨ (s.rx.state = .stopCheck ∧ s.rx.cnt = 1) := by
  have herror := rxOutcome_framingError_iff s.inp.lineIn s.rx
  rw [engineRx_line]
  split
  · next h => exact iff_of_true rfl (.inr (herror.1 h).1)
  · next h => exact (or_iff_left fun hstop => h (herror.2 ⟨hstop, hlow⟩)).symm

theorem lineTick_high (frame : Nat) (l : LineCond) :
    lineTick frame true l = { lowcnt := 0, brk := false, fe := false } := rfl

/-- A low sample counts, and a count above the frame time sets both flags; neither flag is cleared. -/
theorem lineTick_low (frame : Nat) (l : LineCond) :
    (lineTick frame false l).lowcnt = lowStep l.lowcnt ∧
    ((lineTick frame false l).brk = true ↔ l.brk = true ∨ frame < (lowStep l.lowcnt).toNat) ∧
    ((lineTick frame false l).fe = true ↔ l.fe = true ∨ frame < (lowStep l.lowcnt).toNat) := by
  obtain ⟨h, -⟩ | ⟨-, hlong, he⟩ | ⟨-, hshort, he⟩ := lineTick_cases frame false l
  · cases h
  · simp [he, hlong]
  · simp [he, Nat.not_lt.2 hshort]

/-- Settles O24: unit 2 of the engine phase, on the width and the `fe` that unit 1 leaves. -/
theorem highLineEndsBreak : Obligations.HighLineEndsBreak := by
  refine ⟨fun s hhigh => ?_, fun s hlow => ?_⟩
  · rw [enginePhase_line, enginePhase_sticky, hhigh, lineTick_high, Bool.true_and]
    exact ⟨rfl, rfl⟩
  · obtain ⟨hcount, hbrk, hfe⟩ :=
      lineTick_low (frameSteps s.div (if s.rx.state = .idle then s.rxWCfg else s.rx.n)) (engineRx s).line
    rw [engineRx_line_lowcnt] at hcount hbrk hfe
    rw [engineRx_line_brk] at hbrk
    rw [engineRx_line_fe_of_low s hlow, or_right_comm, or_assoc] at hfe
    rw [lowStep_toNat] at hbrk hfe
    simp only [enginePhase_line, rxTick_n, enginePhase_sticky, hlow, Bool.false_and, Bool.or_false]
    exact ⟨by rw [hcount, lowStep_toNat], hbrk, hfe, trivial⟩

-- ---------------------------------------------------------------- host-break request (R54)

/-- The transmit machine never enters a break by itself (R55 to R59). -/
theorem sendBreak_of_txTick {d : BitVec 16} {tx : Tx} (h : (txTick d tx).state = .sendBreak) :
    tx.state = .sendBreak := by
  obtain ⟨-, he⟩ | ⟨-, -, he⟩ | ⟨-, -, he⟩ | ⟨hdata, -, he⟩ | ⟨-, -, he⟩ | ⟨-, -, he⟩ := txTick_cases d tx <;>
    rw [he] at h
  · exact h
  · exact h
  · cases h
  · by_cases hmore : tx.bit.toNat + 1 < dataBits tx.n <;> simp [txNextBit, hmore, hdata] at h
  · cases h
  · cases h

@[simp] theorem restartTx_state (d : BitVec 16) (tx : Tx) : (restartTx d tx).state = tx.state := by
  rw [restartTx_eq]

/-- SENDBRK is the only command that starts a break. -/
theorem eq_sendbrk_of_exec {i : Instr} {s t : State} (h : exec i s = .next t) (hs : s.tx.state ≠ .sendBreak)
    (ht : t.tx.state = .sendBreak) : i = .sendbrk := by
  obtain htx | ⟨b, -, -, htx⟩ | ⟨hi, -⟩ | ⟨v, -, htx⟩ := exec_tx i s t h
  · exact absurd (htx ▸ ht) hs
  · simp [htx] at ht
  · exact hi
  · simp [htx, hs] at ht

/-- Settles O25: a step that ends in a break began it in its command phase. -/
theorem hostBreakRequestOnlyRecords : Obligations.HostBreakRequestOnlyRecords := by
  refine ⟨fun s => ⟨by rw [enginePhase_sticky], enginePhase_hbrPrev s⟩, fun s t h hs ht => ?_⟩
  have hengine : (enginePhase s.takeInput).tx.state ≠ .sendBreak := fun hbreak =>
    hs (sendBreak_of_txTick (by simpa using hbreak))
  obtain ⟨-, ⟨-, rfl⟩ | ⟨-, -, rfl⟩ | ⟨-, -, -, rfl⟩ | ⟨hrst, hvalid, i, hdecode, he⟩⟩ := step_cases s t h
  · cases ht
  · exact absurd ht hengine
  · exact absurd ht hengine
  · exact ⟨hrst, hvalid, eq_sendbrk_of_exec he hengine ht ▸ hdecode⟩

-- ---------------------------------------------------------------- CLRST (R65)

theorem exec_clrst (m : BitVec 5) (s : State) :
    exec (.clrst m) s =
      .next ({ s with sticky := s.sticky.clear s.ev m }.respond
        (State.statusReg { s with sticky := s.sticky.clear s.ev m })) := rfl

theorem readsAs_clrst :
    readsAs 4 (fun w => field w 13 7 = 0 ∧ field w 0 8 = 0) (fun w => .clrst (field w 8 5)) :=
  readsAs_of_fields (fun w => by simp [reservedFields]) (fun w hop => by rw [operands, hop]; rfl)

/-- Settles O32: the sticky bits of R38's rule, bit by bit. -/
theorem clrstClearsNamedBits : Obligations.ClrstClearsNamedBits :=
  ⟨fun m s => ⟨s.sticky.clear s.ev m, get_clear s.sticky s.ev m, exec_clrst m s⟩, readsAs_clrst⟩

-- ---------------------------------------------------------------- TXPUT (R60)

theorem exec_txput_of_idle (b : Byte) (s : State) (h : s.tx.state = .idle) :
    exec (.txput b) s =
      .next ({ s with tx := { state := .sendStart, cnt := bitTime s.div, bit := 0, shift := b, n := s.txWCfg,
                              lineOut := false } }.respond 0) := if_pos h

theorem exec_txput_of_busy (b : Byte) (s : State) (h : s.tx.state ≠ .idle) :
    exec (.txput b) s = .next ((s.setNow .txrej).raise .txBusy) := if_neg h

theorem readsAs_txput : readsAs 1 (fun w => field w 8 12 = 0) (fun w => .txput (field w 0 8)) :=
  readsAs_of_fields (fun w => by simp [reservedFields]) (fun w hop => by rw [operands, hop]; rfl)

/-- Settles O27. -/
theorem txputTakesOrRefuses : Obligations.TxputTakesOrRefuses :=
  ⟨fun b s => ⟨exec_txput_of_idle b s, exec_txput_of_busy b s⟩, readsAs_txput⟩

-- ---------------------------------------------------------------- RXGET (R61)

theorem exec_rxget_of_ready (s : State) (h : s.rx.ready = true) :
    exec .rxget s =
      .next ({ s with rx := { s.rx with ready := false } }.respond (s.rx.data.setWidth 16)) := if_pos h

theorem exec_rxget_of_empty (s : State) (h : s.rx.ready = false) : exec .rxget s = .next (s.raise .rxEmpty) :=
  if_neg (by simp [h])

theorem readsAs_rxget : readsAs 2 (fun w => field w 0 20 = 0) (fun _ => .rxget) :=
  readsAs_of_fields (fun w => by simp [reservedFields]) (fun w hop => by rw [operands, hop]; rfl)

/-- Settles O28. -/
theorem rxgetTakesByte : Obligations.RxgetTakesByte :=
  ⟨fun s => ⟨exec_rxget_of_ready s, exec_rxget_of_empty s⟩, readsAs_rxget⟩

-- ---------------------------------------------------------------- RDREG (R64)

theorem exec_rdreg_of_some {reg : BitVec 3} {s : State} {v : Rsp} (h : s.readReg reg = some v) :
    exec (.rdreg reg) s = .next (s.respond v) := by
  simp [exec, execRdreg, h]

theorem exec_rdreg_of_none {reg : BitVec 3} {s : State} (h : s.readReg reg = none) :
    exec (.rdreg reg) s = .next (s.raise .rsvdSel) := by
  simp [exec, execRdreg, h]

theorem readsAs_rdreg : readsAs 3 (fun w => field w 3 17 = 0) (fun w => .rdreg (field w 0 3)) :=
  readsAs_of_fields (fun w => by simp [reservedFields]) (fun w hop => by rw [operands, hop]; rfl)

/-- Settles O31: six registers are answered, two selectors name none. -/
theorem rdregReadsWithoutEffect : Obligations.RdregReadsWithoutEffect :=
  ⟨fun _ => ⟨exec_rdreg_of_some rfl, exec_rdreg_of_some rfl, exec_rdreg_of_some rfl, exec_rdreg_of_some rfl,
    exec_rdreg_of_some rfl, exec_rdreg_of_some rfl, exec_rdreg_of_none rfl, exec_rdreg_of_none rfl⟩, readsAs_rdreg⟩

end Sys2Proof.Proofs.Framer

/-! The Baudot Codec: the search (R66), the response layouts, and the commands ENC, DEC, SETSH, SETUSOS, SETSEL, TBLWR
and TBLRD (R68 to R74). -/

namespace Sys2Proof.Proofs.Codec

open Sys2Proof Sys2Proof.Machine Sys2Proof.Proofs.ReservedBits Sys2Proof.Proofs.BitTiming

-- ---------------------------------------------------------------- the search (R66)

theorem holds_iff (s : State) (n : Fin 7) (k : Bank) (c : Byte) (i : Code) :
    s.holds n k c i = true ↔
      i ≠ s.par.ltrsCode ∧ i ≠ s.par.figsCode ∧ c ≠ s.par.unused ∧ s.tblRead n k i = c := by
  simp [State.holds, and_assoc]

/-- The search runs over the numbers below 32, least first. -/
theorem find_eq_map_range (s : State) (n : Fin 7) (k : Bank) (c : Byte) :
    s.find n k c = ((List.range 32).find? fun m => s.holds n k c (BitVec.ofNat 5 m)).map (BitVec.ofNat 5) :=
  List.find?_map

theorem find_eq_some_iff (s : State) (n : Fin 7) (k : Bank) (c : Byte) (i : Code) :
    s.find n k c = some i ↔
      s.holds n k c i = true ∧ ∀ j : Code, j.toNat < i.toNat → ¬ s.holds n k c j = true := by
  rw [find_eq_map_range, Option.map_eq_some_iff]
  simp only [List.find?_range_eq_some, List.mem_range]
  constructor
  · rintro ⟨m, ⟨hholds, hlt, hleast⟩, rfl⟩
    refine ⟨hholds, fun j hj => ?_⟩
    have hjm : j.toNat < m := by rwa [BitVec.toNat_ofNat, Nat.mod_eq_of_lt hlt] at hj
    simpa using hleast j.toNat hjm
  · rintro ⟨hholds, hleast⟩
    refine ⟨i.toNat, ⟨by simpa using hholds, i.isLt, fun m hm => ?_⟩, by simp⟩
    have hm32 : m < 32 := hm.trans i.isLt
    simpa using hleast (BitVec.ofNat 5 m) (by rwa [BitVec.toNat_ofNat, Nat.mod_eq_of_lt hm32])

theorem find_eq_none_iff (s : State) (n : Fin 7) (k : Bank) (c : Byte) :
    s.find n k c = none ↔ ∀ j : Code, ¬ s.holds n k c j = true := by
  rw [find_eq_map_range, Option.map_eq_none_iff, List.find?_eq_none]
  refine ⟨fun h j => ?_, fun h m _ => h _⟩
  simpa using h j.toNat (List.mem_range.2 j.isLt)

/-- Settles O38: the least number below 32 that `holds` is the least index that `holds`. -/
theorem findAnswersLeastIndex : Obligations.FindAnswersLeastIndex := by
  intro s n k c
  simp only [← holds_iff]
  exact ⟨find_eq_some_iff s n k c, find_eq_none_iff s n k c⟩

-- ---------------------------------------------------------------- response layouts (R68, R69, R70)

@[simp] theorem shiftBit_eq (q : ShiftState) : shiftBit q = decide (q = .figs) := by cases q <;> rfl

section ResponseBits

variable (q recv send : ShiftState) (drop shift cvalid unusedHit ctrl valid sending : Bool) (code : Code) (c : Byte)

@[simp] theorem encResponse_code : (encResponse q drop shift cvalid code).extractLsb' 0 5 = code := by
  rw [encResponse, BitVec.extractLsb'_append_eq_right]

@[simp] theorem encResponse_getElem :
    (encResponse q drop shift cvalid code)[5] = cvalid ∧
    (encResponse q drop shift cvalid code)[6] = shift ∧
    (encResponse q drop shift cvalid code)[7] = drop ∧
    (encResponse q drop shift cvalid code)[8] = decide (q = .figs) := by
  simp only [encResponse, ← BitVec.getLsbD_eq_getElem]
  repeat rw [BitVec.getLsbD_append]
  simp [bit1]

@[simp] theorem encResponse_high : (encResponse q drop shift cvalid code).extractLsb' 9 7 = 0 := by
  rw [encResponse]
  iterate 5 rw [BitVec.extractLsb'_append_eq_of_le (by decide)]
  rfl

@[simp] theorem decResponse_char : (decResponse unusedHit q ctrl valid c).extractLsb' 0 8 = c := by
  rw [decResponse, BitVec.extractLsb'_append_eq_right]

@[simp] theorem decResponse_getElem :
    (decResponse unusedHit q ctrl valid c)[8] = valid ∧
    (decResponse unusedHit q ctrl valid c)[9] = ctrl ∧
    (decResponse unusedHit q ctrl valid c)[10] = decide (q = .figs) ∧
    (decResponse unusedHit q ctrl valid c)[11] = unusedHit := by
  simp only [decResponse, ← BitVec.getLsbD_eq_getElem]
  repeat rw [BitVec.getLsbD_append]
  simp [bit1]

@[simp] theorem decResponse_high : (decResponse unusedHit q ctrl valid c).extractLsb' 12 4 = 0 := by
  rw [decResponse]
  iterate 5 rw [BitVec.extractLsb'_append_eq_of_le (by decide)]
  rfl

@[simp] theorem setshResponse_code : (setshResponse recv send sending code).extractLsb' 0 5 = code := by
  rw [setshResponse, BitVec.extractLsb'_append_eq_right]

@[simp] theorem setshResponse_getElem :
    (setshResponse recv send sending code)[5] = sending ∧
    (setshResponse recv send sending code)[6] = sending ∧
    (setshResponse recv send sending code)[7] = false ∧
    (setshResponse recv send sending code)[8] = decide (send = .figs) ∧
    (setshResponse recv send sending code)[9] = false ∧
    (setshResponse recv send sending code)[10] = decide (recv = .figs) := by
  simp only [setshResponse, ← BitVec.getLsbD_eq_getElem]
  repeat rw [BitVec.getLsbD_append]
  simp [bit1]

@[simp] theorem setshResponse_high : (setshResponse recv send sending code).extractLsb' 11 5 = 0 := by
  rw [setshResponse]
  iterate 7 rw [BitVec.extractLsb'_append_eq_of_le (by decide)]
  rfl

end ResponseBits

-- ---------------------------------------------------------------- ENC (R68)

/-- Unshift-on-space in the send direction. -/
theorem sendAfter_eq (s : State) (c : Byte) :
    s.sendAfter c =
      if s.codec.usos = true ∧ c = 0x20 ∧ s.codec.sendShift = .figs then .ltrs else s.codec.sendShift := by
  simp [State.sendAfter, space, and_assoc]

theorem exec_enc_of_current {c : Byte} {s : State} {i : Code}
    (h : s.find s.codec.sel (bankOf s.codec.sendShift) c = some i) :
    exec (.enc c) s =
      .next ({ s with codec := { s.codec with sendShift := s.sendAfter c } }.respond
        (encResponse (s.sendAfter c) false false true i)) := by
  simp [exec, execEnc, h]

theorem exec_enc_of_other {c : Byte} {s : State}
    (hcurrent : s.find s.codec.sel (bankOf s.codec.sendShift) c = none)
    (hother : s.find s.codec.sel (bankOf (otherShift s.codec.sendShift)) c ≠ none) :
    exec (.enc c) s =
      .next ({ s with codec := { s.codec with sendShift := otherShift s.codec.sendShift } }.respond
        (encResponse (otherShift s.codec.sendShift) false true true
          (shiftCode s.par (otherShift s.codec.sendShift)))) := by
  obtain ⟨i, hi⟩ := Option.ne_none_iff_exists'.1 hother
  simp [exec, execEnc, hcurrent, hi]

theorem exec_enc_of_dropped {c : Byte} {s : State}
    (hcurrent : s.find s.codec.sel (bankOf s.codec.sendShift) c = none)
    (hother : s.find s.codec.sel (bankOf (otherShift s.codec.sendShift)) c = none) :
    exec (.enc c) s = .next (s.respond (encResponse s.codec.sendShift true false false 0)) := by
  simp [exec, execEnc, hcurrent, hother]

theorem readsAs_enc : readsAs 8 (fun w => field w 8 12 = 0) (fun w => .enc (field w 0 8)) :=
  readsAs_of_fields (fun w => by simp [reservedFields]) (fun w hop => by rw [operands, hop]; rfl)

/-- Settles O39: the three cases of the two searches, each with its response. -/
theorem encTranslates : Obligations.EncTranslates := by
  refine ⟨fun c s => ?_, readsAs_enc⟩
  cases hcurrent : s.find s.codec.sel (bankOf s.codec.sendShift) c with
  | some i =>
    exact ⟨_, s.sendAfter c, exec_enc_of_current hcurrent, by simp [sendAfter_eq]⟩
  | none =>
    by_cases hother : s.find s.codec.sel (bankOf (otherShift s.codec.sendShift)) c = none
    · exact ⟨_, s.codec.sendShift, exec_enc_of_dropped hcurrent hother, by simp [hother]⟩
    · exact ⟨_, otherShift s.codec.sendShift, exec_enc_of_other hcurrent hother, by simp [hother]⟩

-- ---------------------------------------------------------------- DEC (R69)

/-- Unshift-on-space in the receive direction. -/
theorem recvAfter_eq (s : State) (c : Byte) :
    s.recvAfter c =
      if s.codec.usos = true ∧ c = 0x20 ∧ s.codec.recvShift = .figs then .ltrs else s.codec.recvShift := by
  simp [State.recvAfter, space, and_assoc]

theorem exec_dec_ltrs (s : State) :
    exec (.dec s.par.ltrsCode) s =
      .next ({ s with codec := { s.codec with recvShift := .ltrs } }.respond
        (decResponse false .ltrs true false 0)) := if_pos rfl

theorem exec_dec_figs {s : State} (h : s.par.figsCode ≠ s.par.ltrsCode) :
    exec (.dec s.par.figsCode) s =
      .next ({ s with codec := { s.codec with recvShift := .figs } }.respond
        (decResponse false .figs true false 0)) := (if_neg h).trans (if_pos rfl)

theorem exec_dec_of_unused {code : Code} {s : State} (hltrs : code ≠ s.par.ltrsCode) (hfigs : code ≠ s.par.figsCode)
    (h : s.tblRead s.codec.sel (bankOf s.codec.recvShift) code = s.par.unused) :
    exec (.dec code) s = .next (s.respond (decResponse true s.codec.recvShift false false 0)) :=
  (if_neg hltrs).trans ((if_neg hfigs).trans (if_pos h))

theorem exec_dec_of_char {code : Code} {s : State} {c : Byte} (hltrs : code ≠ s.par.ltrsCode)
    (hfigs : code ≠ s.par.figsCode) (hread : s.tblRead s.codec.sel (bankOf s.codec.recvShift) code = c)
    (h : c ≠ s.par.unused) :
    exec (.dec code) s =
      .next ({ s with codec := { s.codec with recvShift := s.recvAfter c } }.respond
        (decResponse false (s.recvAfter c) false true c)) := by
  subst hread
  exact (if_neg hltrs).trans ((if_neg hfigs).trans (if_neg h))

theorem readsAs_dec : readsAs 9 (fun w => field w 5 15 = 0) (fun w => .dec (field w 0 5)) :=
  readsAs_of_fields (fun w => by simp [reservedFields]) (fun w hop => by rw [operands, hop]; rfl)

/-- Settles O40: the two control codes, an unused slot, and a used one. -/
theorem decTranslates : Obligations.DecTranslates := by
  refine ⟨fun code s => ?_, readsAs_dec⟩
  by_cases hltrs : code = s.par.ltrsCode
  · subst hltrs
    exact ⟨_, .ltrs, exec_dec_ltrs s, by simp⟩
  by_cases hfigs : code = s.par.figsCode
  · subst hfigs
    exact ⟨_, .figs, exec_dec_figs hltrs, by simp [hltrs]⟩
  by_cases hunused : s.tblRead s.codec.sel (bankOf s.codec.recvShift) code = s.par.unused
  · exact ⟨_, s.codec.recvShift, exec_dec_of_unused hltrs hfigs hunused, by simp [hltrs, hfigs, hunused]⟩
  · exact ⟨_, _, exec_dec_of_char hltrs hfigs rfl hunused, by simp [hltrs, hfigs, hunused, recvAfter_eq]⟩

-- ---------------------------------------------------------------- table selectors (R19, R32, R72)

theorem tableOf_seven : tableOf 7 = none := rfl

theorem tableOf_of_val {tsel : BitVec 3} {n : Fin 7} (h : n.val = tsel.toNat) : tableOf tsel = some n := by
  have hlt : tsel.toNat < 7 := h ▸ n.isLt
  rw [tableOf, dif_pos hlt]
  exact congrArg some (Fin.ext h.symm)

theorem selectorOf_val (x : Byte) : (selectorOf x).val = if x.toNat ≤ 6 then x.toNat else 0 := by
  unfold selectorOf
  split
  · rw [if_pos (by omega)]
  · rw [if_neg (by omega)]; rfl

-- ---------------------------------------------------------------- TBLWR (R73)

theorem exec_tblwr_of_table {tsel : BitVec 3} {n : Fin 7} (h : n.val = tsel.toNat) (k : Bank) (i : Code) (b : Byte)
    (s : State) : exec (.tblwr tsel k i b) s = .next ((s.tblWrite n k i b).respond (b.setWidth 16)) := by
  simp [exec, execTblwr, tableOf_of_val h]

theorem exec_tblwr_seven (k : Bank) (i : Code) (b : Byte) (s : State) :
    exec (.tblwr 7 k i b) s = .next (s.raise .rsvdSel) := rfl

theorem readsAs_tblwr : readsAs 13 (fun w => field w 17 3 = 0) (fun w =>
    .tblwr (field w 14 3) (if field w 13 1 = 1 then .figures else .letters) (field w 8 5) (field w 0 8)) :=
  readsAs_of_fields (fun w => by simp [reservedFields]) (fun w hop => by rw [operands, hop]; rfl)

/-- Settles O45: one write to the table RAM at the slot's address. -/
theorem tblwrWritesOneByte : Obligations.TblwrWritesOneByte := by
  refine ⟨fun tsel k i b s => ⟨?_, fun n hn => ?_⟩, readsAs_tblwr⟩
  · rintro rfl
    exact exec_tblwr_seven k i b s
  · exact ⟨s.tbl.write s.par (slotAddr n k i) b, exec_tblwr_of_table hn k i b s,
      fun a ha => write_read_other s.par s.tbl _ a b ha, write_read_same s.par s.tbl _ b⟩

-- ---------------------------------------------------------------- SETSH (R70)

theorem exec_setsh (dir : Dir) (q : ShiftState) (s : State) :
    exec (.setsh dir q) s =
      .next ({ s with codec := setShift dir q s.codec }.respond
        (setshResponse (setShift dir q s.codec).recvShift (setShift dir q s.codec).sendShift (dir == Dir.send)
          (shiftCode s.par q))) := rfl

theorem setShift_eq (dir : Dir) (q : ShiftState) (c : Codec) :
    setShift dir q c = if dir = .send then { c with sendShift := q } else { c with recvShift := q } := by
  cases dir <;> rfl

theorem readsAs_setsh : readsAs 10 (fun w => field w 2 18 = 0) (fun w =>
    .setsh (if field w 1 1 = 1 then .receive else .send) (if field w 0 1 = 1 then .figs else .ltrs)) :=
  readsAs_of_fields (fun w => by simp [reservedFields]) (fun w hop => by rw [operands, hop]; rfl)

/-- Settles O42. -/
theorem setshSetsOneShift : Obligations.SetshSetsOneShift := by
  refine ⟨fun dir q s => ⟨_, _, exec_setsh dir q s, setShift_eq dir q s.codec, ?_⟩, readsAs_setsh⟩
  simp [beq_eq_decide]

-- ---------------------------------------------------------------- SETUSOS (R71)

theorem exec_setusos (u : Bool) (s : State) :
    exec (.setusos u) s = .next ({ s with codec := { s.codec with usos := u } }.respond (if u then 1 else 0)) := by
  cases u <;> rfl

theorem readsAs_setusos :
    readsAs 11 (fun w => field w 1 19 = 0) (fun w => .setusos (decide (field w 0 1 = 1))) :=
  readsAs_of_fields (fun w => by simp [reservedFields]) (fun w hop => by rw [operands, hop]; rfl)

/-- Settles O43. -/
theorem setusosSetsPolicy : Obligations.SetusosSetsPolicy := ⟨exec_setusos, readsAs_setusos⟩

-- ---------------------------------------------------------------- SETSEL (R72)

theorem exec_setsel (x : Byte) (s : State) :
    exec (.setsel x) s =
      .next ({ s with codec := { s.codec with sel := selectorOf x } }.respond
        (BitVec.ofNat 16 (selectorOf x).val)) := rfl

theorem readsAs_setsel : readsAs 12 (fun w => field w 8 12 = 0) (fun w => .setsel (field w 0 8)) :=
  readsAs_of_fields (fun w => by simp [reservedFields]) (fun w hop => by rw [operands, hop]; rfl)

/-- Settles O44. -/
theorem setselSelectsTable : Obligations.SetselSelectsTable :=
  ⟨fun x s => ⟨selectorOf x, selectorOf_val x, exec_setsel x s⟩, readsAs_setsel⟩

-- ---------------------------------------------------------------- TBLRD (R74)

theorem exec_tblrd_of_table {tsel : BitVec 3} {n : Fin 7} (h : n.val = tsel.toNat) (k : Bank) (i : Code)
    (s : State) : exec (.tblrd tsel k i) s = .next (s.respond ((s.tblRead n k i).setWidth 16)) := by
  simp [exec, execTblrd, tableOf_of_val h]

theorem exec_tblrd_seven (k : Bank) (i : Code) (s : State) :
    exec (.tblrd 7 k i) s = .next (s.raise .rsvdSel) := rfl

theorem readsAs_tblrd : readsAs 14 (fun w => field w 17 3 = 0 ∧ field w 0 8 = 0) (fun w =>
    .tblrd (field w 14 3) (if field w 13 1 = 1 then .figures else .letters) (field w 8 5)) :=
  readsAs_of_fields (fun w => by simp [reservedFields]) (fun w hop => by rw [operands, hop]; rfl)

/-- Settles O46. -/
theorem tblrdReadsWithoutEffect : Obligations.TblrdReadsWithoutEffect := by
  refine ⟨fun tsel k i s => ⟨?_, fun n hn => exec_tblrd_of_table hn k i s⟩, readsAs_tblrd⟩
  rintro rfl
  exact exec_tblrd_seven k i s

end Sys2Proof.Proofs.Codec

/-! The Relay Sequencer: the command RELAY (R79). -/

namespace Sys2Proof.Proofs.RelaySequencer

open Sys2Proof Sys2Proof.Machine Sys2Proof.Proofs.ReservedBits Sys2Proof.Proofs.BitTiming

-- ---------------------------------------------------------------- where a sequence begins (R79)

theorem relayStart_on_of_off (p : Params) {r : Relay} (h : r.state = .off) :
    relayStart p true r =
      { r with loopRelay := true, state := .poweringOn, phase := 0, cnt := p.phaseTicks,
               ledA := true, ledB := true } := by
  simp [relayStart, h]

theorem relayStart_off_of_enabled (p : Params) {r : Relay} (h : r.state = .enabled) :
    relayStart p false r =
      { r with acRelay := false, state := .poweringOff, phase := 0, cnt := p.phaseTicks,
               ledA := true, ledB := true } := by
  simp [relayStart, h]

theorem relayStart_on_of_enabled (p : Params) {r : Relay} (h : r.state = .enabled) : relayStart p true r = r := by
  simp [relayStart, h]

theorem relayStart_off_of_off (p : Params) {r : Relay} (h : r.state = .off) : relayStart p false r = r := by
  simp [relayStart, h]

-- ---------------------------------------------------------------- RELAY (R79)

theorem exec_relay_of_running (on : Bool) {s : State}
    (h : s.relay.state = .poweringOn ∨ s.relay.state = .poweringOff) :
    exec (.relay on) s = .next (s.raise .relayBusy) := if_pos h

/-- At rest RELAY succeeds, and answers the register of the sequencer it leaves. -/
theorem exec_relay_of_rest (on : Bool) {s : State} (h : s.relay.state = .off ∨ s.relay.state = .enabled) :
    exec (.relay on) s =
      .next ({ s with relay := relayStart s.par on s.relay }.respond
        (State.relayReg { s with relay := relayStart s.par on s.relay })) := by
  have hrest : ¬ (s.relay.state = .poweringOn ∨ s.relay.state = .poweringOff) := by
    rcases h with h | h <;> simp [h]
  exact if_neg hrest

theorem readsAs_relay : readsAs 15 (fun w => field w 1 19 = 0) (fun w => .relay (decide (field w 0 1 = 1))) :=
  readsAs_of_fields (fun w => by simp [reservedFields]) (fun w hop => by rw [operands, hop]; rfl)

/-- Settles O49: a running sequence refuses RELAY; at rest the sequencer it leaves is `relayStart`'s. -/
theorem relayStartsOrRefuses : Obligations.RelayStartsOrRefuses := by
  refine ⟨fun on s => ⟨exec_relay_of_running on, fun hrest => ?_⟩, readsAs_relay⟩
  refine ⟨relayStart s.par on s.relay, exec_relay_of_rest on hrest, ?_, ?_, ?_, ?_⟩
  · rintro rfl hoff
    exact relayStart_on_of_off s.par hoff
  · rintro rfl henabled
    exact relayStart_off_of_enabled s.par henabled
  · rintro rfl henabled
    exact relayStart_on_of_enabled s.par henabled
  · rintro rfl hoff
    exact relayStart_off_of_off s.par hoff

end Sys2Proof.Proofs.RelaySequencer

/-! Failing commands (60_exceptions.md): which command is refused with which code (R82, R84), and what a refusal leaves
unchanged (R83). -/

namespace Sys2Proof.Proofs.Exceptions

open Sys2Proof Sys2Proof.Machine
open Sys2Proof.Proofs.BitTiming Sys2Proof.Proofs.Framer Sys2Proof.Proofs.Codec Sys2Proof.Proofs.RelaySequencer

-- ---------------------------------------------------------------- what a decoded command does: an answer or a refusal

/-- The error of a decoded command on the state its command phase begins with (R82): a reserved selector, then the
command's own condition. -/
def refusal (s : State) : Instr → Option CmdError
  | .rdreg r => if 6 ≤ r.toNat then some .rsvdSel else none
  | .tblwr tsel _ _ _ | .tblrd tsel _ _ => if tsel = 7 then some .rsvdSel else none
  | .txput _ => if s.tx.state ≠ .idle then some .txBusy else none
  | .sendbrk => if s.tx.state = .sendBreak then some .txBusy else none
  | .rxget => if s.rx.ready = false then some .rxEmpty else none
  | .relay _ => if s.relay.state = .poweringOn ∨ s.relay.state = .poweringOff then some .relayBusy else none
  | _ => none

/-- The state a refused command raises on: the one it began with, but for the rejection a TXPUT records (R83). -/
def raisesOn (s : State) : Instr → State
  | .txput _ => s.setNow .txrej
  | _ => s

theorem raisesOn_of_not_txput (s : State) {i : Instr} (h : ¬ ∃ b, i = .txput b) : raisesOn s i = s := by
  unfold raisesOn
  split
  · exact absurd ⟨_, rfl⟩ h
  · rfl

theorem readReg_eq_none_iff (s : State) (r : BitVec 3) : s.readReg r = none ↔ 6 ≤ r.toNat := by
  unfold State.readReg
  split <;> simp_all
  omega

theorem exec_of_refusal_some {s : State} {i : Instr} {e : CmdError} (h : refusal s i = some e) :
    exec i s = .next ((raisesOn s i).raise e) := by
  cases i <;> simp only [refusal, Option.ite_none_right_eq_some, Option.some.injEq, reduceCtorEq] at h <;>
    obtain ⟨hrefused, rfl⟩ := h
  case rdreg => exact exec_rdreg_of_none ((readReg_eq_none_iff s _).2 hrefused)
  case tblwr => exact hrefused ▸ exec_tblwr_seven _ _ _ s
  case tblrd => exact hrefused ▸ exec_tblrd_seven _ _ s
  case txput => exact exec_txput_of_busy _ s hrefused
  case sendbrk => exact if_pos hrefused
  case rxget => exact exec_rxget_of_empty s hrefused
  case relay => exact exec_relay_of_running _ hrefused

/-- A selector other than 7 names a table. -/
theorem exists_table_of_ne_seven {tsel : BitVec 3} (h : tsel ≠ 7) : ∃ n : Fin 7, n.val = tsel.toNat :=
  ⟨⟨tsel.toNat, by bv_omega⟩, rfl⟩

theorem exec_succeeds_of_refusal_none {s : State} {i : Instr} (h : refusal s i = none) :
    ∃ t, exec i s = .next t ∧ t.rspErr = false := by
  cases i <;> simp only [refusal, ite_eq_right_iff, reduceCtorEq, imp_false, not_not] at h
  case nop => exact ⟨_, exec_nop s, rfl⟩
  case txput => exact ⟨_, exec_txput_of_idle _ s h, rfl⟩
  case rxget => exact ⟨_, exec_rxget_of_ready s (by simpa using h), rfl⟩
  case rdreg r =>
    obtain ⟨v, hv⟩ := Option.ne_none_iff_exists'.1 (mt (readReg_eq_none_iff s r).1 h)
    exact ⟨_, exec_rdreg_of_some hv, rfl⟩
  case clrst => exact ⟨_, exec_clrst _ s, rfl⟩
  case setdiv => exact ⟨_, exec_setdiv _ s, rfl⟩
  case setwid => exact ⟨_, rfl, rfl⟩
  case sendbrk => exact ⟨_, if_neg h, rfl⟩
  case enc c =>
    obtain ⟨_, _, hexec, -⟩ := encTranslates.1 c s
    exact ⟨_, hexec, rfl⟩
  case dec c =>
    obtain ⟨_, _, hexec, -⟩ := decTranslates.1 c s
    exact ⟨_, hexec, rfl⟩
  case setsh => exact ⟨_, exec_setsh _ _ s, rfl⟩
  case setusos => exact ⟨_, exec_setusos _ s, rfl⟩
  case setsel => exact ⟨_, exec_setsel _ s, rfl⟩
  case tblwr =>
    obtain ⟨n, hn⟩ := exists_table_of_ne_seven h
    exact ⟨_, exec_tblwr_of_table hn _ _ _ s, rfl⟩
  case tblrd =>
    obtain ⟨n, hn⟩ := exists_table_of_ne_seven h
    exact ⟨_, exec_tblrd_of_table hn _ _ s, rfl⟩
  case relay =>
    have hrest : s.relay.state = .off ∨ s.relay.state = .enabled := by cases hr : s.relay.state <;> simp_all
    exact ⟨_, exec_relay_of_rest _ hrest, rfl⟩

/-- Inversion of a decoded command: it succeeds, or it raises its refusal. -/
theorem exec_cases {i : Instr} {s t : State} (h : exec i s = .next t) :
    (refusal s i = none ∧ t.rspErr = false) ∨ ∃ e, refusal s i = some e ∧ t = (raisesOn s i).raise e := by
  cases hr : refusal s i with
  | none =>
    obtain ⟨u, hu, herr⟩ := exec_succeeds_of_refusal_none hr
    exact .inl ⟨rfl, next_inj (hu.symm.trans h) ▸ herr⟩
  | some e => exact .inr ⟨e, rfl, next_inj (h.symm.trans (exec_of_refusal_some hr))⟩

theorem exec_fails_iff {i : Instr} {s t : State} (h : exec i s = .next t) :
    t.rspErr = true ↔ ∃ e, refusal s i = some e := by
  obtain ⟨hr, herr⟩ | ⟨e, hr, rfl⟩ := exec_cases h <;> simp [*]

-- ---------------------------------------------------------------- the causes and the codes (R82, R84)

theorem refusal_rsvdSel_iff (s : State) (i : Instr) :
    refusal s i = some .rsvdSel ↔
      (∃ r, i = .rdreg r ∧ 6 ≤ r.toNat) ∨ (∃ k x b, i = .tblwr 7 k x b) ∨ (∃ k x, i = .tblrd 7 k x) := by
  cases i <;> simp [refusal]

theorem refusal_txBusy_iff (s : State) (i : Instr) :
    refusal s i = some .txBusy ↔
      ((∃ b, i = .txput b) ∧ s.tx.state ≠ .idle) ∨ (i = .sendbrk ∧ s.tx.state = .sendBreak) := by
  cases i <;> simp [refusal]

theorem refusal_rxEmpty_iff (s : State) (i : Instr) :
    refusal s i = some .rxEmpty ↔ i = .rxget ∧ s.rx.ready = false := by
  cases i <;> simp [refusal]

theorem refusal_relayBusy_iff (s : State) (i : Instr) :
    refusal s i = some .relayBusy ↔
      (∃ on, i = .relay on) ∧ (s.relay.state = .poweringOn ∨ s.relay.state = .poweringOff) := by
  cases i <;> simp [refusal, or_iff_not_imp_left]

/-- `RSVD_BITS` is the decoder's refusal and never a command's own. -/
theorem refusal_ne_rsvdBits (s : State) (i : Instr) : refusal s i ≠ some .rsvdBits := by
  cases i <;> simp [refusal]

theorem exists_refusal_iff (s : State) (i : Instr) :
    (∃ e, refusal s i = some e) ↔
      ((∃ r, i = .rdreg r ∧ 6 ≤ r.toNat) ∨ (∃ k x b, i = .tblwr 7 k x b) ∨ (∃ k x, i = .tblrd 7 k x)) ∨
      ((∃ b, i = .txput b) ∧ s.tx.state ≠ .idle) ∨ (i = .sendbrk ∧ s.tx.state = .sendBreak) ∨
      (i = .rxget ∧ s.rx.ready = false) ∨
      ((∃ on, i = .relay on) ∧ (s.relay.state = .poweringOn ∨ s.relay.state = .poweringOff)) := by
  have hcodes : (∃ e, refusal s i = some e) ↔ refusal s i = some .rsvdSel ∨ refusal s i = some .txBusy ∨
      refusal s i = some .rxEmpty ∨ refusal s i = some .relayBusy := by
    constructor
    · rintro ⟨e, he⟩
      cases e with
      | rsvdBits => exact absurd he (refusal_ne_rsvdBits s i)
      | rsvdSel | txBusy | rxEmpty | relayBusy => simp [he]
    · rintro (h | h | h | h) <;> exact ⟨_, h⟩
  rw [hcodes, refusal_rsvdSel_iff, refusal_txBusy_iff, refusal_rxEmpty_iff, refusal_relayBusy_iff]
  simp only [or_assoc]

/-- The code of a refusal is the one its command's name fixes (R82). -/
theorem code_of_refusal {s : State} {i : Instr} {e : CmdError} (h : refusal s i = some e) :
    (((∃ r, i = .rdreg r) ∨ (∃ n k x b, i = .tblwr n k x b) ∨ (∃ n k x, i = .tblrd n k x)) → e.code = 2) ∧
    (((∃ b, i = .txput b) ∨ i = .sendbrk) → e.code = 3) ∧
    (i = .rxget → e.code = 4) ∧ ((∃ on, i = .relay on) → e.code = 5) := by
  cases e with
  | rsvdBits => exact absurd h (refusal_ne_rsvdBits s i)
  | rsvdSel =>
    obtain ⟨_, rfl, -⟩ | ⟨_, _, _, rfl⟩ | ⟨_, _, rfl⟩ := (refusal_rsvdSel_iff s i).1 h <;> simp [CmdError.code]
  | txBusy => obtain ⟨⟨_, rfl⟩, -⟩ | ⟨rfl, -⟩ := (refusal_txBusy_iff s i).1 h <;> simp [CmdError.code]
  | rxEmpty => obtain ⟨rfl, -⟩ := (refusal_rxEmpty_iff s i).1 h; simp [CmdError.code]
  | relayBusy => obtain ⟨⟨_, rfl⟩, -⟩ := (refusal_relayBusy_iff s i).1 h; simp [CmdError.code]

-- ---------------------------------------------------------------- the command phase (R31, R36, R84)

theorem commandPhase_of_decode_error {s : State} (hv : s.inp.cmdValid = true)
    (hd : decode s.inp.cmd = .error .reservedBits) : commandPhase s = .next (s.raise .rsvdBits) := by
  simp [commandPhase, hv, hd]

theorem commandPhase_of_decode {s : State} {i : Instr} (hv : s.inp.cmdValid = true)
    (hd : decode s.inp.cmd = .ok i) : commandPhase s = exec i s := by
  simp [commandPhase, hv, hd]

/-- A command phase that fails raised on a word with a reserved bit, or on a refused command. -/
theorem commandPhase_failure {s t : State} (h : commandPhase s = .next t) (herr : t.rspErr = true) :
    (decode s.inp.cmd = .error .reservedBits ∧ t = s.raise .rsvdBits) ∨
    ∃ i e, decode s.inp.cmd = .ok i ∧ refusal s i = some e ∧ t = (raisesOn s i).raise e := by
  cases hv : s.inp.cmdValid with
  | false =>
    rw [commandPhase_of_no_command s hv] at h
    cases next_inj h
    exact absurd herr (by simp)
  | true =>
    cases hd : decode s.inp.cmd with
    | error r =>
      cases r
      rw [commandPhase_of_decode_error hv hd] at h
      exact .inl ⟨rfl, (next_inj h).symm⟩
    | ok i =>
      rw [commandPhase_of_decode hv hd] at h
      obtain ⟨-, hok⟩ | ⟨e, hr, ht⟩ := exec_cases h
      · exact absurd herr (by simp [hok])
      · exact .inr ⟨i, e, rfl, hr, ht⟩

/-- Settles O16: a failing command phase raises on the state it began with, or on that state with `txrej` set. -/
theorem failingCommandChangesNothing : Obligations.FailingCommandChangesNothing := by
  intro s t h herr
  obtain ⟨hd, rfl⟩ | ⟨i, e, hd, hr, rfl⟩ := commandPhase_failure h herr
  · refine ⟨fun ⟨b, hb⟩ => ?_, fun _ => rfl⟩
    cases hd.symm.trans hb
  · refine ⟨fun ⟨b, hb⟩ => ?_, fun hnot => ?_⟩
    · cases hd.symm.trans hb
      exact ⟨(code_of_refusal hr).2.1 (.inl ⟨b, rfl⟩), rfl⟩
    · rw [raisesOn_of_not_txput s fun ⟨b, hb⟩ => hnot ⟨b, hb ▸ hd⟩]
      rfl

/-- Settles O17: the decoder's refusal comes before any command's own, whose causes and codes are those of `refusal`. -/
theorem errorCodesAndTheirCauses : Obligations.ErrorCodesAndTheirCauses := by
  intro s t h
  refine ⟨fun hv => ?_, fun hv hd => ?_, fun i hv hd => ?_⟩
  · cases next_inj ((commandPhase_of_no_command s hv).symm.trans h)
    exact ⟨rfl, rfl⟩
  · cases next_inj ((commandPhase_of_decode_error hv hd).symm.trans h)
    exact ⟨rfl, rfl⟩
  · rw [commandPhase_of_decode hv hd] at h
    refine ⟨(exec_fails_iff h).trans (exists_refusal_iff s i), fun herr => ?_⟩
    obtain ⟨-, hok⟩ | ⟨e, hr, rfl⟩ := exec_cases h
    · exact absurd herr (by simp [hok])
    · exact code_of_refusal hr

end Sys2Proof.Proofs.Exceptions

/-! The command encoding (R30, R31, R34, R35): the encoder and the decoder are inverse to each other, the decoder accepts
exactly the rows of the opcode table, and an assembler line is its word. -/

namespace Sys2Proof.Proofs.Encoding

open Sys2Proof Sys2Proof.Machine Sys2Proof.Proofs.ReservedBits

-- ---------------------------------------------------------------- the decoder

theorem decode_eq_ok_iff (w : Cmd) (i : Instr) : decode w = .ok i ↔ reservedZero w = true ∧ operands w = i := by
  unfold decode
  split <;> simp_all

theorem field_toNat (w : Cmd) (lo len : Nat) : (field w lo len).toNat = w.toNat / 2 ^ lo % 2 ^ len := by
  rw [field, BitVec.extractLsb'_toNat, Nat.shiftRight_eq_div_pow]

theorem field_and (v w : Cmd) (lo len : Nat) : field (v &&& w) lo len = field v lo len &&& field w lo len :=
  BitVec.extractLsb'_and

/-- The operands read from a word are those of its opcode's command. -/
theorem operands_opcode (w : Cmd) : (operands w).opcode = opcodeOf w := by
  apply BitVec.eq_of_toNat_eq
  have hlt := (opcodeOf w).isLt
  interval_cases hop : (opcodeOf w).toNat <;> simp [operands, hop, Instr.opcode]

theorem opcodeOf_of_decode {w : Cmd} {i : Instr} (h : decode w = .ok i) : opcodeOf w = i.opcode := by
  rw [← ((decode_eq_ok_iff w i).1 h).2, operands_opcode]

-- ---------------------------------------------------------------- decoding an encoded command

/-- Every encoded command carries its opcode and no reserved bit. -/
theorem encodeFits : ∀ i : Instr, Laws.EncodeFits.Statement i
  | .nop => Laws.EncodeFits.nop
  | .txput b => Laws.EncodeFits.txput b
  | .rxget => Laws.EncodeFits.rxget
  | .rdreg r => Laws.EncodeFits.rdreg r
  | .clrst m => Laws.EncodeFits.clrst m
  | .setdiv v => Laws.EncodeFits.setdiv v
  | .setwid r t => Laws.EncodeFits.setwid r t
  | .sendbrk => Laws.EncodeFits.sendbrk
  | .enc c => Laws.EncodeFits.enc c
  | .dec c => Laws.EncodeFits.dec c
  | .setsh d q => Laws.EncodeFits.setsh d q
  | .setusos u => Laws.EncodeFits.setusos u
  | .setsel v => Laws.EncodeFits.setsel v
  | .tblwr t k i b => Laws.EncodeFits.tblwr t k i b
  | .tblrd t k i => Laws.EncodeFits.tblrd t k i
  | .relay on => Laws.EncodeFits.relay on

/-- A field of an encoded command is the operand whose number stands there. -/
theorem field_encode_eq {i : Instr} {lo len : Nat} {v : BitVec len} (h : encodeNat i / 2 ^ lo % 2 ^ len = v.toNat) :
    field (encode i) lo len = v := by
  rw [Laws.EncodeFits.field_eq i lo len v.toNat (by rw [h, Nat.mod_eq_of_lt v.isLt]), BitVec.ofNat_toNat,
    BitVec.setWidth_eq]

theorem bank_ofBit_ofNat (k : Bank) : Bank.ofBit (BitVec.ofNat 1 k.toNat) = k := by cases k <;> rfl

theorem bank_toNat_le (k : Bank) : k.toNat ≤ 1 := by cases k <;> decide

/-- The operands of an encoded command, field by field. -/
theorem operands_encode (i : Instr) : operands (encode i) = i := by
  have hop := (encodeFits i).1
  cases i with
  | nop | rxget | sendbrk => rw [operands, hop]; rfl
  | setwid r t => cases r <;> cases t <;> rfl
  | setsh d q => cases d <;> cases q <;> rfl
  | setusos u => cases u <;> rfl
  | relay on => cases on <;> rfl
  | txput b =>
    have hb : field (encode (.txput b)) 0 8 = b := field_encode_eq (by have := b.isLt; simp only [encodeNat]; omega)
    rw [operands, hop]; exact congrArg Instr.txput hb
  | rdreg r =>
    have hr : field (encode (.rdreg r)) 0 3 = r := field_encode_eq (by have := r.isLt; simp only [encodeNat]; omega)
    rw [operands, hop]; exact congrArg Instr.rdreg hr
  | clrst m =>
    have hm : field (encode (.clrst m)) 8 5 = m := field_encode_eq (by have := m.isLt; simp only [encodeNat]; omega)
    rw [operands, hop]; exact congrArg Instr.clrst hm
  | setdiv v =>
    have hv : field (encode (.setdiv v)) 0 16 = v := field_encode_eq (by have := v.isLt; simp only [encodeNat]; omega)
    rw [operands, hop]; exact congrArg Instr.setdiv hv
  | enc c =>
    have hc : field (encode (.enc c)) 0 8 = c := field_encode_eq (by have := c.isLt; simp only [encodeNat]; omega)
    rw [operands, hop]; exact congrArg Instr.enc hc
  | dec c =>
    have hc : field (encode (.dec c)) 0 5 = c := field_encode_eq (by have := c.isLt; simp only [encodeNat]; omega)
    rw [operands, hop]; exact congrArg Instr.dec hc
  | setsel v =>
    have hv : field (encode (.setsel v)) 0 8 = v := field_encode_eq (by have := v.isLt; simp only [encodeNat]; omega)
    rw [operands, hop]; exact congrArg Instr.setsel hv
  | tblwr t k i b =>
    have := t.isLt; have := i.isLt; have := b.isLt; have := bank_toNat_le k
    have ht : field (encode (.tblwr t k i b)) 14 3 = t := field_encode_eq (by simp only [encodeNat]; omega)
    have hk : field (encode (.tblwr t k i b)) 13 1 = BitVec.ofNat 1 k.toNat :=
      Laws.EncodeFits.field_eq _ 13 1 _ (by simp only [encodeNat]; omega)
    have hi : field (encode (.tblwr t k i b)) 8 5 = i := field_encode_eq (by simp only [encodeNat]; omega)
    have hb : field (encode (.tblwr t k i b)) 0 8 = b := field_encode_eq (by simp only [encodeNat]; omega)
    rw [operands, hop]
    simp only [Instr.opcode, BitVec.reduceToNat]
    rw [ht, hk, hi, hb, bank_ofBit_ofNat]
  | tblrd t k i =>
    have := t.isLt; have := i.isLt; have := bank_toNat_le k
    have ht : field (encode (.tblrd t k i)) 14 3 = t := field_encode_eq (by simp only [encodeNat]; omega)
    have hk : field (encode (.tblrd t k i)) 13 1 = BitVec.ofNat 1 k.toNat :=
      Laws.EncodeFits.field_eq _ 13 1 _ (by simp only [encodeNat]; omega)
    have hi : field (encode (.tblrd t k i)) 8 5 = i := field_encode_eq (by simp only [encodeNat]; omega)
    rw [operands, hop]
    simp only [Instr.opcode, BitVec.reduceToNat]
    rw [ht, hk, hi, bank_ofBit_ofNat]

/-- Settles O1: the encoded word has no reserved bit, and its fields are the operands. -/
theorem decodeReadsBackEncode : Obligations.DecodeReadsBackEncode := fun i =>
  (decode_eq_ok_iff _ _).2 ⟨(encodeFits i).2, operands_encode i⟩

-- ---------------------------------------------------------------- encoding a decoded word

theorem dataWidth_ofBit_toNat (b : BitVec 1) : (DataWidth.ofBit b).toNat = b.toNat := by revert b; decide
theorem shiftState_ofBit_toNat (b : BitVec 1) : (ShiftState.ofBit b).toNat = b.toNat := by revert b; decide
theorem dir_ofBit_toNat (b : BitVec 1) : (Dir.ofBit b).toNat = b.toNat := by revert b; decide
theorem bank_ofBit_toNat (b : BitVec 1) : (Bank.ofBit b).toNat = b.toNat := by revert b; decide
theorem bit_eq_one_toNat (b : BitVec 1) : (b == 1).toNat = b.toNat := by revert b; decide

theorem field_eq_zero_iff (w : Cmd) (lo len : Nat) : field w lo len = 0 ↔ w.toNat / 2 ^ lo % 2 ^ len = 0 := by
  rw [← BitVec.toNat_inj, field_toNat]; simp

/-- An accepted word is its opcode, its operands in their fields, and 0 elsewhere, so it is the number R34 gives. In each
row the opcode, the operand fields and the reserved fields cover the word, and their places add up to it. -/
theorem encodeNat_operands (w : Cmd) (h : reservedZero w = true) : encodeNat (operands w) = w.toNat := by
  have hlt := w.isLt
  have hoplt := (opcodeOf w).isLt
  have hfield : (opcodeOf w).toNat = w.toNat / 2 ^ 20 % 2 ^ 4 := field_toNat w 20 4
  interval_cases hop : (opcodeOf w).toNat <;>
    simp only [reservedZero, hop, Bool.and_eq_true, beq_iff_eq, field_eq_zero_iff] at h <;>
    simp only [operands, hop, encodeNat, dataWidth_ofBit_toNat, shiftState_ofBit_toNat, dir_ofBit_toNat,
      bank_ofBit_toNat, bit_eq_one_toNat, field_toNat] <;>
    omega

/-- Settles O2: the number of an accepted word's command is the word's own. -/
theorem encodeReadsBackDecode : Obligations.EncodeReadsBackDecode := by
  intro w i h
  obtain ⟨hzero, rfl⟩ := (decode_eq_ok_iff w i).1 h
  apply BitVec.eq_of_toNat_eq
  rw [encode, BitVec.toNat_ofNat, encodeNat_operands w hzero, Nat.mod_eq_of_lt w.isLt]

-- ---------------------------------------------------------------- the rows of the opcode table

/-- An opcode's mask has a 1 at the opcode's bits and at every reserved bit. -/
theorem field_maskOf : ∀ op : BitVec 4, ∀ f ∈ (20, 4) :: reservedFields op,
    field (maskOf (reservedFields op)) f.1 f.2 = BitVec.allOnes f.2 := by decide

/-- An opcode's pattern has a 0 at every reserved bit. -/
theorem field_pattern : ∀ op : BitVec 4, field (op.setWidth 24 <<< 20) 20 4 = op ∧
    ∀ f ∈ reservedFields op, field (op.setWidth 24 <<< 20) f.1 f.2 = 0 := by decide

/-- A word matches an opcode's mask and pattern exactly when it has the opcode and no reserved bit. -/
theorem and_mask_eq_pattern_iff (w : Cmd) (op : BitVec 4) :
    w &&& maskOf (reservedFields op) = op.setWidth 24 <<< 20 ↔ opcodeOf w = op ∧ reservedZero w = true := by
  constructor
  · intro h
    have hmasked : ∀ f ∈ (20, 4) :: reservedFields op, field w f.1 f.2 = field (op.setWidth 24 <<< 20) f.1 f.2 := by
      intro f hf
      rw [← h, field_and, field_maskOf op f hf, BitVec.and_allOnes]
    obtain ⟨hopcode, hreserved⟩ := field_pattern op
    have hop : opcodeOf w = op := (hmasked (20, 4) (by simp)).trans hopcode
    refine ⟨hop, (reservedZero_iff w).2 fun f hf => ?_⟩
    rw [hop] at hf
    rw [hmasked f (List.mem_cons_of_mem _ hf), hreserved f hf]
  · rintro ⟨rfl, hzero⟩
    exact and_maskOf w _ ((reservedZero_iff w).1 hzero)

/-- The row of an opcode: the rows stand in the order of their opcodes (R30). -/
def rowOf (op : BitVec 4) : OpcodeRow := opcodeTable[op.toNat]'op.isLt

theorem mnemonic_eq (i : Instr) : i.mnemonic = (rowOf i.opcode).mnemonic := by cases i <;> rfl

/-- No two opcodes share a mnemonic. -/
theorem rowOf_mnemonic_injective : ∀ op op' : BitVec 4,
    (rowOf op).mnemonic = (rowOf op').mnemonic → op = op' := by decide

/-- Every row is the mask, the pattern and the mnemonic of one opcode. -/
theorem opcode_of_row : ∀ r ∈ opcodeTable, ∃ op : BitVec 4,
    r.mask = maskOf (reservedFields op) ∧ r.pattern = op.setWidth 24 <<< 20 ∧
    r.mnemonic = (rowOf op).mnemonic := by decide

theorem mnemonic_eq_iff (i : Instr) (op : BitVec 4) : i.mnemonic = (rowOf op).mnemonic ↔ i.opcode = op := by
  rw [mnemonic_eq]
  exact ⟨rowOf_mnemonic_injective _ _, fun h => by rw [h]⟩

/-- Settles O3: the row of an opcode is matched by the words of that opcode with no reserved bit. -/
theorem decodeAcceptsExactlyTableRows : Obligations.DecodeAcceptsExactlyTableRows := by
  intro w r hr
  obtain ⟨op, hmask, hpattern, hmnemonic⟩ := opcode_of_row r hr
  simp only [hmask, hpattern, hmnemonic, and_mask_eq_pattern_iff, decode_eq_ok_iff, mnemonic_eq_iff]
  constructor
  · rintro ⟨i, ⟨hzero, rfl⟩, hop⟩
    exact ⟨operands_opcode w ▸ hop, hzero⟩
  · rintro ⟨hop, hzero⟩
    exact ⟨operands w, ⟨hzero, rfl⟩, (operands_opcode w).trans hop⟩

/-- Settles O4. -/
theorem writtenWordsDecode : Obligations.WrittenWordsDecode :=
  ⟨rfl, rfl, rfl, rfl, rfl, rfl, rfl, rfl, rfl, rfl⟩

-- ---------------------------------------------------------------- assembler lines (R34, R35)

theorem assemble_of_wf {p : Params} {l : AsmLine} (h : l.wf = true) : assemble p l = some (expand p l) := if_pos h

theorem assemble_of_not_wf {p : Params} {l : AsmLine} (h : l.wf = false) : assemble p l = none := by
  simp [assemble, h]

/-- An accepted line of one command is the number its command encodes to. -/
theorem assemblesTo_of_wf {p : Params} {l : AsmLine} {c : Instr} {n : Nat} (hwf : l.wf = true)
    (hexpand : expand p l = [.command c]) (hn : encodeNat c = n) : assemblesTo p l n :=
  ⟨c, by rw [assemble_of_wf hwf, hexpand], congrArg (BitVec.ofNat 24) hn⟩

theorem ofNat_toNat_of_lt {len n : Nat} (h : n < 2 ^ len) : (BitVec.ofNat len n).toNat = n := by
  rw [BitVec.toNat_ofNat, Nat.mod_eq_of_lt h]

theorem bank_toNat_eq (k : Bank) : k.toNat = if k = .figures then 1 else 0 := by cases k <;> rfl

theorem widthOf_toNat (w : Nat) : (widthOf w).toNat = if w = 8 then 1 else 0 := by
  unfold widthOf
  split <;> rfl

theorem isWidth_iff (w : Nat) : isWidth w = true ↔ w = 5 ∨ w = 8 := by simp [isWidth]

/-- A line accepted exactly under a condition, whose command is then this number. -/
theorem assemblesTo_or_refused {p : Params} {l : AsmLine} {c : Instr} {n : Nat} {ok : Prop} [Decidable ok]
    (hwf : l.wf = true ↔ ok) (hexpand : expand p l = [.command c]) (hn : ok → encodeNat c = n) :
    if ok then assemblesTo p l n else assemble p l = none := by
  split
  · next h => exact assemblesTo_of_wf (hwf.2 h) hexpand (hn h)
  · next h => exact assemble_of_not_wf (Bool.eq_false_iff.2 (mt hwf.1 h))

/-- A divisor label is a 16-bit number. -/
theorem baudToDivisor_le (p : Params) {r : Nat} (hr : 1 ≤ r) : ∃ d, baudToDivisor p r = some d ∧ d ≤ 65535 := by
  by_cases h : ∃ d, (r, d) ∈ baudTable
  · obtain ⟨d, hd⟩ := h
    have hsmall : ∀ x ∈ baudTable, x.2 ≤ 65535 := by decide
    exact ⟨d, BitTiming.baudToDivisor_of_mem p hr hd, hsmall _ hd⟩
  · exact ⟨_, BitTiming.baudToDivisor_of_not_mem p hr (not_exists.1 h), by omega⟩

/-- SETBAUD is SETDIV of the rate's divisor. -/
theorem assemblesTo_setbaud (p : Params) {r : Nat} (hr : 1 ≤ r) :
    ∃ d, baudToDivisor p r = some d ∧ d ≤ 65535 ∧ assemblesTo p (.setbaud r) (0x500000 + d) := by
  obtain ⟨d, hd, hle⟩ := baudToDivisor_le p hr
  refine ⟨d, hd, hle, assemblesTo_of_wf (c := .setdiv (BitVec.ofNat 16 d)) (by simpa [AsmLine.wf]) ?_ ?_⟩
  · simp [expand, hd]
  · rw [encodeNat, ofNat_toNat_of_lt (by omega)]

/-- Settles O5: each line is accepted exactly when its operands fit, and is then its expansion. -/
theorem assembledLineIsItsWord : Obligations.AssembledLineIsItsWord := by
  intro p
  refine ⟨assemblesTo_of_wf rfl rfl rfl, assemblesTo_of_wf rfl rfl rfl, assemblesTo_of_wf rfl rfl rfl,
    fun b => assemblesTo_or_refused (by simp [AsmLine.wf]) rfl fun h => ?txput,
    fun r => assemblesTo_or_refused (by simp [AsmLine.wf]) rfl fun h => ?rdreg,
    fun m => assemblesTo_or_refused (by simp [AsmLine.wf, isClrMask]) rfl fun h => ?clrst,
    fun v => assemblesTo_or_refused (by simp [AsmLine.wf]) rfl fun h => ?setdiv,
    fun r x => assemblesTo_or_refused (by simp [AsmLine.wf, isWidth_iff]) rfl fun h => ?setwid,
    fun b => assemblesTo_or_refused (by simp [AsmLine.wf]) rfl fun h => ?enc,
    fun c => assemblesTo_or_refused (by simp [AsmLine.wf]) rfl fun h => ?dec,
    fun d q => assemblesTo_of_wf rfl rfl ?setsh,
    fun u => assemblesTo_or_refused (by simp [AsmLine.wf]) rfl fun h => ?setusos,
    fun v => assemblesTo_or_refused (by simp [AsmLine.wf]) rfl fun h => ?setsel,
    fun t k i b => assemblesTo_or_refused (by simp [AsmLine.wf, and_assoc]) rfl fun ⟨ht, hi, hb⟩ => ?tblwr,
    fun t k i => assemblesTo_or_refused (by simp [AsmLine.wf]) rfl fun ⟨ht, hi⟩ => ?tblrd,
    assemblesTo_of_wf rfl rfl rfl, assemblesTo_of_wf rfl rfl rfl, rfl, rfl, fun n => ?wait,
    assemblesTo_of_wf rfl rfl rfl, assemblesTo_of_wf rfl rfl rfl, assemblesTo_of_wf rfl rfl rfl,
    assemblesTo_of_wf rfl rfl rfl, assemblesTo_of_wf rfl rfl rfl, assemblesTo_of_wf rfl rfl rfl,
    assemblesTo_of_wf rfl rfl rfl, fun r => ?setbaud, fun r m v => ?poll, fun m v s => by simp [pollDone]⟩
  case txput | rdreg | setdiv | enc | dec | setsel => rw [encodeNat, ofNat_toNat_of_lt h]
  case clrst => rw [encodeNat, ofNat_toNat_of_lt (by omega)]; omega
  case setwid => simp only [encodeNat, widthOf_toNat]
  case setsh => cases d <;> cases q <;> rfl
  case setusos => interval_cases u <;> rfl
  case tblwr =>
    rw [encodeNat, ofNat_toNat_of_lt ht, ofNat_toNat_of_lt hi, ofNat_toNat_of_lt hb, bank_toNat_eq]
  case tblrd => rw [encodeNat, ofNat_toNat_of_lt ht, ofNat_toNat_of_lt hi, bank_toNat_eq]
  case wait =>
    have hwf : (AsmLine.wait n).wf = true ↔ 1 ≤ n := by simp [AsmLine.wf]
    split
    · next h => exact assemble_of_wf (hwf.2 h)
    · next h => exact assemble_of_not_wf (Bool.eq_false_iff.2 (mt hwf.1 h))
  case setbaud =>
    have hwf : (AsmLine.setbaud r).wf = true ↔ 1 ≤ r := by simp [AsmLine.wf]
    split
    · next h => exact assemblesTo_setbaud p h
    · next h => exact assemble_of_not_wf (Bool.eq_false_iff.2 (mt hwf.1 h))
  case poll =>
    have hwf : (AsmLine.poll r m v).wf = true ↔ r < 8 ∧ m < 65536 ∧ v < 65536 := by simp [AsmLine.wf, and_assoc]
    split
    · next h => exact ⟨_, assemble_of_wf (hwf.2 h), rfl, rfl⟩
    · next h => exact assemble_of_not_wf (Bool.eq_false_iff.2 (mt hwf.1 h))

end Sys2Proof.Proofs.Encoding

/-! One step of the block (R36) and runs of steps: what a step without reset can do to each unit, the reset step (R93),
the parameters (R5), and the registers and ports (R16, R17). -/

namespace Sys2Proof.Proofs.Steps

open Sys2Proof Sys2Proof.Machine
open Sys2Proof.Proofs.BitTiming Sys2Proof.Proofs.Framer Sys2Proof.Proofs.Encoding Sys2Proof.Proofs.Exceptions

-- ---------------------------------------------------------------- the command a step performs

theorem performs_inj {s : State} {i j : Instr} (hi : s.performs i) (hj : s.performs j) : i = j := by
  obtain ⟨-, -, hi⟩ := hi
  obtain ⟨-, -, hj⟩ := hj
  exact Except.ok.inj (hi.symm.trans hj)

/-- A step quiet for some opcodes performs none of their commands. -/
theorem not_mem_of_quietFor {s : State} {ops : List (BitVec 4)} {i : Instr} (hquiet : quietFor ops s.nextInput)
    (hp : s.performs i) : i.opcode ∉ ops := by
  obtain ⟨-, hvalid, hdecode⟩ := hp
  exact opcodeOf_of_decode hdecode ▸ hquiet.2 hvalid

/-- Everything a step without reset can be (R36): it performs no command and only answers, or it performs one command
on what its engine phase left. -/
theorem step_without_reset {s t : State} (h : step s = .next t) (hrst : s.nextInput.rst = false) :
    ((∀ i, ¬ s.performs i) ∧ (t = (enginePhase s.takeInput).respond 0 ∨ t = (enginePhase s.takeInput).raise .rsvdBits)) ∨
    ∃ i, s.performs i ∧ exec i (enginePhase s.takeInput) = .next t := by
  obtain ⟨-, ⟨hr, -⟩ | ⟨-, hv, ht⟩ | ⟨-, -, hd, ht⟩ | ⟨-, hv, i, hd, he⟩⟩ := step_cases s t h
  · simp [hrst] at hr
  · exact .inl ⟨fun i ⟨_, hvalid, _⟩ => by simp [hv] at hvalid, .inl ht⟩
  · exact .inl ⟨fun i ⟨_, _, hdec⟩ => (by cases hd.symm.trans hdec), .inr ht⟩
  · exact .inr ⟨i, ⟨hrst, hv, hd⟩, he⟩

theorem step_of_performs {s : State} {i : Instr} (hwf : s.par.wf = true) (hp : s.performs i) :
    step s = exec i (enginePhase s.takeInput) := by
  obtain ⟨hrst, hv, hd⟩ := hp
  rw [step_of_no_reset s hwf hrst]
  exact commandPhase_of_decode (by simpa using hv) (by simpa using hd)

/-- A step with reset (R36, R93): neither phase runs. -/
theorem step_of_reset {s : State} (hwf : s.par.wf = true) (hrst : s.nextInput.rst = true) :
    step s = .next s.takeInput.resetStep := by
  simp [step, runStep, hwf, hrst]

/-- With accepted parameters every step answers a next state (R87). -/
theorem step_answers {s : State} (hwf : s.par.wf = true) : ∃ t, step s = .next t := by
  cases hrst : s.nextInput.rst with
  | true => exact ⟨_, step_of_reset hwf hrst⟩
  | false =>
    rw [step_of_no_reset s hwf hrst]
    cases hv : s.nextInput.cmdValid with
    | false => exact ⟨_, commandPhase_of_no_command _ (by simpa using hv)⟩
    | true =>
      cases hd : decode s.nextInput.cmd with
      | error e =>
        cases e
        exact ⟨_, commandPhase_of_decode_error (by simpa using hv) (by simpa using hd)⟩
      | ok i =>
        rw [commandPhase_of_decode (i := i) (by simpa using hv) (by simpa using hd)]
        exact exec_answers i _

-- ---------------------------------------------------------------- what a step without reset does to each unit

section UnitSteps

variable {s t : State} (h : step s = .next t) (hrst : s.nextInput.rst = false)
include h hrst

theorem step_div : t.div = s.div ∨ ∃ v, s.performs (.setdiv v) ∧ t.div = divisorOf s.par v := by
  obtain ⟨-, rfl | rfl⟩ | ⟨i, hp, he⟩ := step_without_reset h hrst
  · exact .inl (by simp)
  · exact .inl (by simp)
  · obtain hd | ⟨v, rfl, hd⟩ := exec_div i _ t he
    · exact .inl (by simp [hd])
    · exact .inr ⟨v, hp, by simp [hd]⟩

theorem step_widths : (t.rxWCfg = s.rxWCfg ∧ t.txWCfg = s.txWCfg) ∨
    ∃ r x, s.performs (.setwid r x) ∧ t.rxWCfg = r ∧ t.txWCfg = x := by
  obtain ⟨-, rfl | rfl⟩ | ⟨i, hp, he⟩ := step_without_reset h hrst
  · exact .inl (by simp)
  · exact .inl (by simp)
  · obtain ⟨hr, hx⟩ | ⟨r, x, rfl, hw⟩ := exec_widths i _ t he
    · exact .inl (by simp [hr, hx])
    · exact .inr ⟨r, x, hp, hw⟩

/-- The receive machine: the engine phase, then RXGET or SETDIV. -/
theorem step_rx : t.rx = (enginePhase s.takeInput).rx ∨
    (s.performs .rxget ∧ t.rx = { (enginePhase s.takeInput).rx with ready := false }) ∨
    ∃ v, s.performs (.setdiv v) ∧ t.rx = restartRx (divisorOf s.par v) (enginePhase s.takeInput).rx := by
  obtain ⟨-, rfl | rfl⟩ | ⟨i, hp, he⟩ := step_without_reset h hrst
  · exact .inl rfl
  · exact .inl rfl
  · obtain hx | ⟨rfl, -, hx⟩ | ⟨v, rfl, hx⟩ := exec_rx i _ t he
    · exact .inl hx
    · exact .inr (.inl ⟨hp, hx⟩)
    · exact .inr (.inr ⟨v, hp, by simpa using hx⟩)

theorem step_line : t.line = (enginePhase s.takeInput).line := by
  obtain ⟨-, rfl | rfl⟩ | ⟨i, -, he⟩ := step_without_reset h hrst
  · rfl
  · rfl
  · exact (exec_line i _ t he).1

/-- The transmit machine: the engine phase, then TXPUT, SENDBRK or SETDIV. -/
theorem step_tx : t.tx = txTick s.div s.tx ∨
    (∃ b, s.performs (.txput b) ∧ (txTick s.div s.tx).state = .idle ∧
      t.tx = { state := .sendStart, cnt := bitTime s.div, bit := 0, shift := b, n := s.txWCfg, lineOut := false }) ∨
    (s.performs .sendbrk ∧ (txTick s.div s.tx).state ≠ .sendBreak ∧
      t.tx = { txTick s.div s.tx with state := .sendBreak, cnt := s.par.breakTicks, bit := 0, lineOut := false }) ∨
    (∃ v, s.performs (.setdiv v) ∧ t.tx = restartTx (divisorOf s.par v) (txTick s.div s.tx)) := by
  obtain ⟨-, rfl | rfl⟩ | ⟨i, hp, he⟩ := step_without_reset h hrst
  · exact .inl (by simp)
  · exact .inl (by simp)
  · obtain hx | ⟨b, rfl, hidle, hx⟩ | ⟨rfl, hfree, hx⟩ | ⟨v, rfl, hx⟩ := exec_tx i _ t he
    · exact .inl (by simpa using hx)
    · exact .inr (.inl ⟨b, hp, by simpa using hidle, by simpa using hx⟩)
    · exact .inr (.inr (.inl ⟨hp, by simpa using hfree, by simpa using hx⟩))
    · exact .inr (.inr (.inr ⟨v, hp, by simpa using hx⟩))

/-- The relay sequencer: the engine phase, then a RELAY at rest. -/
theorem step_relay : t.relay = relayTick s.par s.relay ∨
    ∃ on, s.performs (.relay on) ∧ (relayTick s.par s.relay).state ≠ .poweringOn ∧
      (relayTick s.par s.relay).state ≠ .poweringOff ∧
      t.relay = relayStart s.par on (relayTick s.par s.relay) := by
  obtain ⟨-, rfl | rfl⟩ | ⟨i, hp, he⟩ := step_without_reset h hrst
  · exact .inl (by simp)
  · exact .inl (by simp)
  · obtain hx | ⟨on, rfl, hon, hoff, hx⟩ := exec_relay i _ t he
    · exact .inl (by simpa using hx)
    · exact .inr ⟨on, hp, by simpa using hon, by simpa using hoff, by simpa using hx⟩

theorem step_tbl : t.tbl = s.tbl ∨
    ∃ tsel k i b n, s.performs (.tblwr tsel k i b) ∧ tableOf tsel = some n ∧
      t.tbl = s.tbl.write s.par (slotAddr n k i) b := by
  obtain ⟨-, rfl | rfl⟩ | ⟨i, hp, he⟩ := step_without_reset h hrst
  · exact .inl (by simp)
  · exact .inl (by simp)
  · obtain hx | ⟨tsel, k, x, b, n, rfl, hn, hx⟩ := exec_tbl i _ t he
    · exact .inl (by simpa using hx)
    · exact .inr ⟨tsel, k, x, b, n, hp, hn, by simpa using hx⟩

/-- The events: those of the engine phase, and a TXPUT that meets a busy transmitter. -/
theorem step_ev :
    ((∃ b, s.performs (.txput b)) ∧ (enginePhase s.takeInput).tx.state ≠ .idle ∧
      t.ev = (enginePhase s.takeInput).ev.set .txrej) ∨
    (¬((∃ b, s.performs (.txput b)) ∧ (enginePhase s.takeInput).tx.state ≠ .idle) ∧
      t.ev = (enginePhase s.takeInput).ev) := by
  obtain ⟨hno, rfl | rfl⟩ | ⟨i, hp, he⟩ := step_without_reset h hrst
  · exact .inr ⟨fun ⟨⟨b, hb⟩, _⟩ => hno _ hb, rfl⟩
  · exact .inr ⟨fun ⟨⟨b, hb⟩, _⟩ => hno _ hb, rfl⟩
  · obtain ⟨⟨b, rfl⟩, hbusy, hx⟩ | ⟨hno, hx⟩ := exec_ev i _ t he
    · exact .inl ⟨⟨b, hp⟩, hbusy, hx⟩
    · exact .inr ⟨fun ⟨⟨b, hb⟩, hbusy⟩ => hno ⟨⟨b, performs_inj hp hb⟩, hbusy⟩, hx⟩

end UnitSteps

/-- Every step takes the inputs written down for it. -/
theorem step_inputs {s t : State} (h : step s = .next t) : t.inputs = s.inputs.tail := by
  obtain ⟨-, ⟨-, rfl⟩ | ⟨-, -, rfl⟩ | ⟨-, -, -, rfl⟩ | ⟨-, -, i, -, he⟩⟩ := step_cases s t h
  · simp
  · simp
  · simp
  · obtain ⟨-, -, hinputs, -⟩ := exec_environment i _ t he
    simp [hinputs]

-- ---------------------------------------------------------------- runs

theorem runsTo_succ {k : Nat} {s t u : State} (h : runsTo k s t) (hstep : step t = .next u) :
    runsTo (k + 1) s u := by
  induction k generalizing s with
  | zero =>
    have hst : s = t := next_inj h
    subst hst
    exact run_succ 0 s u u hstep rfl
  | succ k ih =>
    simp only [runsTo, Host.Core.run] at h
    split at h
    · next v hv => exact run_succ (k + 1) s v u hv (ih h)
    · cases h
    · cases h

/-- An induction along a run: a predicate of the step number and the state that holds at first and is kept by every
step quiet for the opcodes holds after `k` steps. -/
theorem run_induction {P : Nat → State → Prop} {ops : List (BitVec 4)} {s : State} {k : Nat} (hwf : s.par.wf = true)
    (hquiet : s.quietRun ops k) (hzero : P 0 s)
    (hsucc : ∀ (j : Nat) (u v : State), j < k → P j u → u.par = s.par → s.inputs[j]? = some u.nextInput →
      quietFor ops u.nextInput → step u = .next v → P (j + 1) v) :
    ∃ t, runsTo k s t ∧ P k t := by
  have hreach : ∀ j, j ≤ k → ∃ t, runsTo j s t ∧ t.par = s.par ∧ t.inputs = s.inputs.drop j ∧ P j t := by
    intro j
    induction j with
    | zero => exact fun _ => ⟨s, rfl, rfl, rfl, hzero⟩
    | succ j ih =>
      intro hj
      obtain ⟨u, hu, hpar, hinputs, hP⟩ := ih (by omega)
      have hlt : j < s.inputs.length := by have := hquiet.1; omega
      have hnext : u.nextInput = s.inputs[j] :=
        nextInput_cons u _ (s.inputs.drop (j + 1)) (by rw [hinputs, List.drop_eq_getElem_cons hlt])
      have hmem : s.inputs[j] ∈ s.inputs.take k := List.mem_take_iff_getElem.2 ⟨j, by omega, rfl⟩
      obtain ⟨v, hv⟩ := step_answers (s := u) (by rw [hpar, hwf])
      refine ⟨v, runsTo_succ hu hv, (step_par u v hv).trans hpar, ?_, ?_⟩
      · rw [step_inputs hv, hinputs, List.tail_drop]
      · exact hsucc j u v (by omega) hP hpar (by rw [hnext, List.getElem?_eq_getElem hlt])
          (by rw [hnext]; exact hquiet.2 _ hmem) hv
  obtain ⟨t, ht, -, -, hP⟩ := hreach k (Nat.le_refl k)
  exact ⟨t, ht, hP⟩

/-- Settles O10: every step answers, and keeps the parameters. -/
theorem runsNeverStop : Obligations.RunsNeverStop := by
  intro s k hwf
  induction k with
  | zero => exact ⟨s, rfl, rfl⟩
  | succ k ih =>
    obtain ⟨t, ht, hpar⟩ := ih
    obtain ⟨u, hu⟩ := step_answers (s := t) (by rw [hpar, hwf])
    exact ⟨u, runsTo_succ ht hu, (step_par t u hu).trans hpar⟩

/-- A run quiet for some opcodes is quiet for its first steps, and for fewer opcodes. -/
theorem quietRun_mono {s : State} {ops ops' : List (BitVec 4)} {k k' : Nat} (h : s.quietRun ops k) (hk : k' ≤ k)
    (hops : ops' ⊆ ops) : s.quietRun ops' k' := by
  obtain ⟨hlen, hall⟩ := h
  refine ⟨hk.trans hlen, fun i hi => ?_⟩
  obtain ⟨hrst, hop⟩ := hall i (List.take_subset_take_left _ hk hi)
  exact ⟨hrst, fun hv hmem => hop hv (hops hmem)⟩

/-- A run quiet for these opcodes and for those is quiet for them all. -/
theorem quietRun_append {s : State} {ops ops' : List (BitVec 4)} {k : Nat} (h : s.quietRun ops k)
    (h' : s.quietRun ops' k) : s.quietRun (ops ++ ops') k := by
  refine ⟨h.1, fun i hi => ⟨(h.2 i hi).1, fun hv hmem => ?_⟩⟩
  rcases List.mem_append.1 hmem with hmem | hmem
  · exact (h.2 i hi).2 hv hmem
  · exact (h'.2 i hi).2 hv hmem

-- ---------------------------------------------------------------- the step (R5, R36, R93)

/-- Settles O6. -/
theorem stepRunsDecodedCommand : Obligations.StepRunsDecodedCommand :=
  ⟨fun _ _ hwf hp => ⟨step_of_performs hwf hp, rfl⟩, fun s => by simp⟩

/-- Table 0 holds the canonical banks at reset (R14). -/
theorem resetByte_canonical (p : Params) (i : Code) :
    resetByte p (slotAddr 0 .letters i) = p.canonL.getD i.toNat p.unused ∧
    resetByte p (slotAddr 0 .figures i) = p.canonF.getD i.toNat p.unused := by
  have hi := i.isLt
  have hletters : slotAddr 0 .letters i = i.toNat := by simp [slotAddr, Bank.toNat]
  have hfigures : slotAddr 0 .figures i = 32 + i.toNat := by simp [slotAddr, Bank.toNat]
  rw [hletters, hfigures, resetByte, resetByte, if_pos (by omega), if_neg (by omega), if_pos (by omega),
    Nat.add_sub_cancel_left]
  exact ⟨rfl, rfl⟩

/-- Tables 1 to 6 are unused at reset (R14). -/
theorem resetByte_unused (p : Params) {n : Fin 7} (hn : n ≠ 0) (k : Bank) (i : Code) :
    resetByte p (slotAddr n k i) = p.unused := by
  have hpos : 1 ≤ n.val := Nat.one_le_iff_ne_zero.2 fun e => hn (Fin.ext e)
  have haddr : 64 ≤ slotAddr n k i := by unfold slotAddr; omega
  rw [resetByte, if_neg (by omega), if_neg (by omega)]

/-- Settles O8: a reset step's state is `resetWith` the parameters. -/
theorem resetStepGivesResetValues : Obligations.ResetStepGivesResetValues := by
  intro s hwf hrst
  exact ⟨_, step_of_reset hwf hrst, rfl, rfl, rfl, rfl, rfl, rfl, rfl, rfl, rfl, rfl,
    fun i => resetByte_canonical s.par i, fun n k i hn => resetByte_unused s.par hn k i, rfl, rfl⟩

/-- Settles O9. -/
theorem resetHoldsDefaults : Obligations.ResetHoldsDefaults := ⟨rfl, rfl, rfl, rfl, rfl, rfl⟩

/-- R5's constraint column. -/
theorem params_wf_iff (p : Params) : p.wf = true ↔
    1 ≤ p.fStep ∧ p.divDefault ≠ 0 ∧ p.breakTicks ≠ 0 ∧ p.phaseTicks ≠ 0 ∧ 1 ≤ p.onIters ∧ p.onIters ≤ 8 ∧
    1 ≤ p.offIters ∧ p.offIters ≤ 8 ∧ p.ltrsCode ≠ p.figsCode ∧ p.canonL.length = 32 ∧ p.canonF.length = 32 := by
  simp only [Params.wf, Bool.and_eq_true, decide_eq_true_eq, and_assoc]

/-- Settles O11: a step with accepted parameters answers a next state, any other refuses them. -/
theorem onlyBadParametersAreRefused : Obligations.OnlyBadParametersAreRefused := by
  refine ⟨params_wf_iff, fun s r => ?_⟩
  cases hwf : s.par.wf with
  | true =>
    obtain ⟨t, ht⟩ := step_answers hwf
    simp [ht]
  | false =>
    have hrefused : step s = .refused .badParameters := if_neg (by simp [hwf])
    simp [hrefused, eq_comm]

-- ---------------------------------------------------------------- registers and ports (R16, R17)

/-- Settles O14: each bit of the concatenation. -/
theorem statusRegisterBits : Obligations.StatusRegisterBits := by
  intro s
  have hhigh : s.statusReg.extractLsb' 13 3 = 0 := by
    rw [State.statusReg]
    iterate 13 rw [BitVec.extractLsb'_append_eq_of_le (by decide)]
    rfl
  rw [hhigh]
  simp only [State.statusReg, BitVec.getLsbD_append]
  simp [bit1, beq_eq_decide]

theorem widthBit_eq (w : DataWidth) : widthBit w = decide (w = .eight) := by cases w <;> rfl

theorem configReg_sel (s : State) : (s.configReg.extractLsb' 4 3).toNat = s.codec.sel.val := by
  have hsel : s.configReg.extractLsb' 4 3 = BitVec.ofNat 3 s.codec.sel.val := by
    rw [State.configReg]
    iterate 4 rw [BitVec.extractLsb'_append_eq_of_le (by decide)]
    exact BitVec.extractLsb'_append_eq_right
  rw [hsel, ofNat_toNat_of_lt (by omega)]

theorem configReg_high (s : State) : s.configReg.extractLsb' 9 7 = 0 := by
  rw [State.configReg]
  iterate 7 rw [BitVec.extractLsb'_append_eq_of_le (by decide)]
  rfl

theorem shiftReg_high (s : State) : s.shiftReg.extractLsb' 2 14 = 0 := by
  rw [State.shiftReg]
  iterate 2 rw [BitVec.extractLsb'_append_eq_of_le (by decide)]
  rfl

theorem relayReg_state (s : State) : s.relayReg.extractLsb' 0 2 = s.relay.state.bits := by
  rw [State.relayReg]
  exact BitVec.extractLsb'_append_eq_right

theorem relayReg_phase (s : State) : s.relayReg.extractLsb' 7 4 = s.relay.phase := by
  rw [State.relayReg]
  iterate 6 rw [BitVec.extractLsb'_append_eq_of_le (by decide)]
  exact BitVec.extractLsb'_append_eq_right

theorem relayReg_high (s : State) : s.relayReg.extractLsb' 11 5 = 0 := by
  rw [State.relayReg]
  iterate 7 rw [BitVec.extractLsb'_append_eq_of_le (by decide)]
  rfl

theorem engineReg_fields (s : State) :
    s.engineReg.extractLsb' 0 2 = s.rx.state.bits ∧ s.engineReg.extractLsb' 2 4 = s.rx.bit ∧
    s.engineReg.extractLsb' 6 3 = s.tx.state.bits ∧ s.engineReg.extractLsb' 9 3 = s.tx.bit ∧
    s.engineReg.extractLsb' 12 4 = 0 := by
  rw [State.engineReg]
  refine ⟨BitVec.extractLsb'_append_eq_right, ?_, ?_, ?_, ?_⟩
  · iterate 1 rw [BitVec.extractLsb'_append_eq_of_le (by decide)]
    exact BitVec.extractLsb'_append_eq_right
  · iterate 2 rw [BitVec.extractLsb'_append_eq_of_le (by decide)]
    exact BitVec.extractLsb'_append_eq_right
  · iterate 3 rw [BitVec.extractLsb'_append_eq_of_le (by decide)]
    exact BitVec.extractLsb'_append_eq_right
  · iterate 4 rw [BitVec.extractLsb'_append_eq_of_le (by decide)]
    rfl

theorem relayState_bits_iff (r : RelayState) : (r = .off ↔ r.bits = 0) ∧ (r = .poweringOn ↔ r.bits = 1) ∧
    (r = .enabled ↔ r.bits = 2) ∧ (r = .poweringOff ↔ r.bits = 3) := by cases r <;> decide

theorem rxState_bits_iff (r : RxState) : (r = .idle ↔ r.bits = 0) ∧ (r = .startDetected ↔ r.bits = 1) ∧
    (r = .samplingBits ↔ r.bits = 2) ∧ (r = .stopCheck ↔ r.bits = 3) := by cases r <;> decide

theorem txState_bits_iff (r : TxState) : (r = .idle ↔ r.bits = 0) ∧ (r = .sendStart ↔ r.bits = 1) ∧
    (r = .sendData ↔ r.bits = 2) ∧ (r = .sendStop ↔ r.bits = 3) ∧ (r = .sendBreak ↔ r.bits = 4) := by
  cases r <;> decide

theorem configReg_fields (s : State) :
    s.configReg.getLsbD 0 = decide (s.rxWCfg = .eight) ∧ s.configReg.getLsbD 1 = decide (s.txWCfg = .eight) ∧
    s.configReg.getLsbD 2 = s.codec.usos ∧ s.configReg.getLsbD 3 = false ∧
    (s.configReg.extractLsb' 4 3).toNat = s.codec.sel.val ∧ s.configReg.getLsbD 7 = decide (s.rx.n = .eight) ∧
    s.configReg.getLsbD 8 = decide (s.tx.n = .eight) ∧ s.configReg.extractLsb' 9 7 = 0 := by
  rw [configReg_sel, configReg_high]
  simp only [State.configReg, BitVec.getLsbD_append]
  simp [bit1, widthBit_eq]

theorem shiftReg_fields (s : State) :
    s.shiftReg.getLsbD 0 = decide (s.codec.sendShift = .figs) ∧
    s.shiftReg.getLsbD 1 = decide (s.codec.recvShift = .figs) ∧ s.shiftReg.extractLsb' 2 14 = 0 := by
  rw [shiftReg_high]
  simp only [State.shiftReg, BitVec.getLsbD_append]
  simp [bit1]

theorem relayReg_fields (s : State) :
    s.relayReg.getLsbD 2 = s.relay.loopRelay ∧ s.relayReg.getLsbD 3 = s.relay.acRelay ∧
    s.relayReg.getLsbD 4 = s.relay.ledA ∧ s.relayReg.getLsbD 5 = s.relay.ledB ∧
    s.relayReg.getLsbD 6 = s.inp.forcedIn ∧ s.relayReg.extractLsb' 7 4 = s.relay.phase ∧
    s.relayReg.extractLsb' 11 5 = 0 := by
  rw [relayReg_phase, relayReg_high]
  simp only [State.relayReg, BitVec.getLsbD_append]
  simp [bit1]

/-- Settles O15: the fields of each register, and the numbers of the states. -/
theorem otherRegisterFields : Obligations.OtherRegisterFields := by
  intro s
  obtain ⟨hrx, hrxbit, htx, htxbit, hhigh⟩ := engineReg_fields s
  obtain ⟨hoff, hon, henabled, hpoff⟩ := relayState_bits_iff s.relay.state
  obtain ⟨hridle, hstart, hsampling, hstop⟩ := rxState_bits_iff s.rx.state
  obtain ⟨htidle, htstart, htdata, htstop, htbreak⟩ := txState_bits_iff s.tx.state
  rw [relayReg_state, hrx, htx]
  exact ⟨rfl, configReg_fields s, shiftReg_fields s,
    ⟨hoff, hon, henabled, hpoff, relayReg_fields s⟩,
    ⟨hridle, hstart, hsampling, hstop, hrxbit, htidle, htstart, htdata, htstop, htbreak, htxbit, hhigh⟩, rfl⟩

end Sys2Proof.Proofs.Steps

/-! The Soft-UART Framer, one step at a time: the events of a step (R49, R52, R54, R60), the data and stop samples (R48,
R49), when a width is latched (R46, R60), and the commands SENDBRK and SETWID (R62, R63). -/

namespace Sys2Proof.Proofs.FramerSteps

open Sys2Proof Sys2Proof.Machine
open Sys2Proof.Proofs.ReservedBits Sys2Proof.Proofs.BitTiming Sys2Proof.Proofs.Framer Sys2Proof.Proofs.Steps

-- ---------------------------------------------------------------- the events of a step

/-- R49: a byte is ready at a high stop sample. -/
theorem rxOutcome_byteReady_iff (lineIn : Bool) (rx : Rx) :
    rxOutcome lineIn rx = .byteReady ↔ (rx.state = .stopCheck ∧ rx.cnt = 1) ∧ lineIn = true := by
  simp only [rxOutcome, sub_one_eq_zero]
  split
  · next hstop => cases lineIn <;> simp [hstop]
  · next hstop => exact ⟨nofun, fun h => absurd h.1 hstop⟩

/-- The events of the engine phase of a step. -/
theorem enginePhase_takeInput_ev (s : State) :
    (enginePhase s.takeInput).ev =
      { feev := decide ((s.rx.state = .stopCheck ∧ s.rx.cnt = 1) ∧ s.nextInput.lineIn = false)
        fefall := s.nextInput.lineIn && s.line.fe
        ovr := decide ((s.rx.state = .stopCheck ∧ s.rx.cnt = 1) ∧ s.nextInput.lineIn = true) && s.rx.ready
        txrej := false
        hbr := !s.hbrPrev && s.nextInput.hostBrkIn } := by
  rw [enginePhase_ev]
  simp only [takeInput_ev, takeInput_inp, takeInput_rx, takeInput_line, takeInput_hbrPrev, Sticky.none,
    rxOutcome_framingError_iff, rxOutcome_byteReady_iff, Bool.false_or]

/-- Settles O13: the engine phase's events, and `txrej` of a refused TXPUT. -/
theorem eventsOfAStep : Obligations.EventsOfAStep := by
  intro s t h hrst
  obtain ⟨htx, hbusy, hev⟩ | ⟨hno, hev⟩ := step_ev h hrst <;> rw [hev, enginePhase_takeInput_ev]
  · simp only [Sticky.set, and_assoc, decide_eq_true_eq, Bool.and_eq_true, Bool.not_eq_true', true_and, true_iff]
    exact ⟨htx, hbusy⟩
  · simp only [and_assoc, decide_eq_true_eq, Bool.and_eq_true, Bool.not_eq_true', true_and, Bool.false_eq_true, false_iff]
    exact hno

-- ---------------------------------------------------------------- data samples (R48)

theorem setBit_getLsbD (v : Byte) (i j : Nat) (b : Bool) (hj : j < 8) :
    (setBit v i b).getLsbD j = if j = i then b else v.getLsbD j := by
  unfold setBit
  by_cases hji : j = i
  · subst hji
    cases b <;> simp [hj]
  · by_cases hlt : j < i
    · cases b <;> simp [hj, hji, hlt]
    · have hpos : j - i ≠ 0 := by omega
      cases b <;> simp [hj, hji, hlt, hpos]

/-- Outside `IDLE` the receive machine counts down until its counter is at 1. -/
theorem rxTick_of_counting (d : BitVec 16) (cfg : DataWidth) (lineIn : Bool) {rx : Rx} (hbusy : rx.state ≠ .idle)
    (hcnt : rx.cnt ≠ 1) : rxTick d cfg lineIn rx = { rx with cnt := rx.cnt - 1 } := by
  have hcnt' : rx.cnt - 1 ≠ 0 := mt (sub_one_eq_zero rx.cnt).1 hcnt
  obtain ⟨h, -⟩ | ⟨-, -, he⟩ | ⟨-, h, -⟩ | ⟨-, h, -⟩ := rxTick_cases d cfg lineIn rx
  · exact absurd h hbusy
  · exact he
  · exact absurd h hcnt'
  · exact absurd h hcnt'

theorem rxTick_of_dataSample (d : BitVec 16) (cfg : DataWidth) (lineIn : Bool) {rx : Rx}
    (hstate : rx.state = .startDetected ∨ rx.state = .samplingBits) (hcnt : rx.cnt = 1) :
    rxTick d cfg lineIn rx = rxSample d lineIn rx := by
  have hcnt' := (sub_one_eq_zero rx.cnt).2 hcnt
  unfold rxTick
  rcases hstate with h | h <;> simp only [h, hcnt', if_true]

theorem rxTick_of_stopSample (d : BitVec 16) (cfg : DataWidth) (lineIn : Bool) {rx : Rx}
    (hstate : rx.state = .stopCheck) (hcnt : rx.cnt = 1) : rxTick d cfg lineIn rx = rxStop lineIn rx := by
  have hcnt' := (sub_one_eq_zero rx.cnt).2 hcnt
  unfold rxTick
  simp only [hstate, hcnt', if_true]

/-- Settles O22. -/
theorem dataBitIsSampled : Obligations.DataBitIsSampled := by
  intro s hstate
  have hbusy : s.rx.state ≠ .idle := by rcases hstate with h | h <;> simp [h]
  refine ⟨fun hcnt => ?_, fun hcnt => ?_⟩ <;> rw [enginePhase_rx]
  · rw [rxTick_of_counting _ _ _ hbusy hcnt]
  · rw [rxTick_of_dataSample _ _ _ hstate hcnt]
    refine ⟨fun j hj => setBit_getLsbD _ _ _ _ hj, rfl, bitTime_toNat s.div, ?_, ?_, rfl, rfl, rfl⟩ <;>
      by_cases hlast : s.rx.bit.toNat + 1 = dataBits s.rx.n <;> simp [rxSample, hlast]

-- ---------------------------------------------------------------- the stop sample (R49)

/-- The received byte has 0 above the data bits. -/
theorem lowBits_getLsbD (w : DataWidth) (v : Byte) (j : Nat) (hj : j < 8) :
    (lowBits w v).getLsbD j = (decide (j < dataBits w) && v.getLsbD j) := by
  cases w
  · have hj8 : decide (j < 8) = true := decide_eq_true hj
    simp only [lowBits, BitVec.getLsbD_setWidth, hj8, Bool.true_and]
    rfl
  · simp [lowBits, dataBits, hj]

/-- Settles O23. -/
theorem stopBitDecidesByte : Obligations.StopBitDecidesByte := by
  intro s hstate
  have hbusy : s.rx.state ≠ .idle := by simp [hstate]
  refine ⟨fun hcnt => ?_, fun hcnt hhigh => ?_, fun hcnt hlow => ?_⟩
  · rw [enginePhase_rx, rxTick_of_counting _ _ _ hbusy hcnt]
  · have hovr : (enginePhase s).sticky.ovr = (s.sticky.ovr || s.rx.ready) := by
      rw [enginePhase_sticky]
      simp [rxOutcome_byteReady_iff, hstate, hcnt, hhigh]
    rw [hovr, enginePhase_rx, rxTick_of_stopSample _ _ _ hstate hcnt, hhigh]
    exact ⟨rfl, fun j hj => lowBits_getLsbD _ _ j hj, rfl⟩
  · obtain ⟨-, -, hfe, -⟩ := highLineEndsBreak.2 s hlow
    rw [hfe, enginePhase_sticky, enginePhase_rx, rxTick_of_stopSample _ _ _ hstate hcnt, hlow]
    simp [rxStop, rxOutcome_byteReady_iff, rxOutcome_framingError_iff, hstate, hcnt]

-- ---------------------------------------------------------------- when a width is latched (R46, R60)

theorem step_rx_n {s t : State} (h : step s = .next t) (hrst : s.nextInput.rst = false) :
    t.rx.n = if s.rx.state = .idle then s.rxWCfg else s.rx.n := by
  have hengine : (enginePhase s.takeInput).rx.n = if s.rx.state = .idle then s.rxWCfg else s.rx.n := by
    simp [rxTick_n]
  obtain hrx | ⟨-, hrx⟩ | ⟨v, -, hrx⟩ := step_rx h hrst
  · rw [hrx, hengine]
  · rw [hrx, hengine]
  · rw [hrx, restartRx_eq, hengine]

theorem txTick_n (d : BitVec 16) (tx : Tx) : (txTick d tx).n = tx.n := by
  obtain ⟨-, he⟩ | ⟨-, -, he⟩ | ⟨-, -, he⟩ | ⟨-, -, he⟩ | ⟨-, -, he⟩ | ⟨-, -, he⟩ := txTick_cases d tx <;> rw [he]
  · rfl
  · unfold txNextBit
    split <;> rfl

/-- Settles O26. -/
theorem widthsLatchBetweenFrames : Obligations.WidthsLatchBetweenFrames := by
  intro s t h hrst
  refine ⟨fun hbusy => by rw [step_rx_n h hrst, if_neg hbusy], fun hidle => by rw [step_rx_n h hrst, if_pos hidle], ?_⟩
  obtain htx | ⟨b, hp, hidle, htx⟩ | ⟨-, -, htx⟩ | ⟨v, -, htx⟩ := step_tx h hrst
  · exact .inl (by rw [htx, txTick_n])
  · exact .inr ⟨by rw [htx], ⟨b, hp⟩, by simpa using hidle⟩
  · exact .inl (by rw [htx]; exact txTick_n _ _)
  · exact .inl (by rw [htx, restartTx_eq]; exact txTick_n _ _)

-- ---------------------------------------------------------------- SENDBRK (R62) and SETWID (R63)

theorem exec_sendbrk_of_free {s : State} (h : s.tx.state ≠ .sendBreak) :
    exec .sendbrk s =
      .next ({ s with tx := { s.tx with state := .sendBreak, cnt := s.par.breakTicks, bit := 0,
                                        lineOut := false } }.respond 0) := if_neg h

theorem readsAs_sendbrk : readsAs 7 (fun w => field w 0 20 = 0) (fun _ => .sendbrk) :=
  readsAs_of_fields (fun w => by simp [reservedFields]) (fun w hop => by rw [operands, hop]; rfl)

/-- Settles O29. -/
theorem sendbrkForcesLineLow : Obligations.SendbrkForcesLineLow :=
  ⟨fun _ => ⟨exec_sendbrk_of_free, fun hbreak => if_pos hbreak⟩, readsAs_sendbrk⟩

theorem readsAs_setwid : readsAs 6 (fun w => field w 2 18 = 0) (fun w =>
    .setwid (if field w 0 1 = 1 then .eight else .five) (if field w 1 1 = 1 then .eight else .five)) :=
  readsAs_of_fields (fun w => by simp [reservedFields]) (fun w hop => by rw [operands, hop]; rfl)

/-- Settles O30: the response is the number of the two width bits. -/
theorem setwidConfiguresWidths : Obligations.SetwidConfiguresWidths :=
  ⟨fun r x _ => ⟨_, rfl, by cases r <;> cases x <;> rfl⟩, readsAs_setwid⟩

end Sys2Proof.Proofs.FramerSteps

/-! What every step keeps (10_state.md): a nonzero divisor, a legal receive machine, line condition, transmit machine
and relay sequencer, the canonical form of the table RAM and the bytes no TBLWR names; and the reset state has it all. -/

namespace Sys2Proof.Proofs.Invariants

open Sys2Proof Sys2Proof.Machine
open Sys2Proof.Proofs.BitTiming Sys2Proof.Proofs.Framer Sys2Proof.Proofs.RelaySequencer
open Sys2Proof.Proofs.Steps Sys2Proof.Proofs.FramerSteps

-- ---------------------------------------------------------------- what a step can be, and the reset step

/-- A step resets, or does not. -/
theorem reset_or_not {s t : State} (h : step s = .next t) :
    (s.par.wf = true ∧ t = s.takeInput.resetStep) ∨ s.nextInput.rst = false := by
  obtain ⟨hwf, ⟨-, ht⟩ | ⟨hrst, -⟩ | ⟨hrst, -⟩ | ⟨hrst, -⟩⟩ := step_cases s t h
  · exact .inl ⟨hwf, ht⟩
  · exact .inr hrst
  · exact .inr hrst
  · exact .inr hrst

/-- Settles O60: every unit at its reset value is legal. -/
theorem resetIsLegal : Obligations.ResetIsLegal := by
  have hreset : ∀ p : Params, p.wf = true → (State.resetWith p).legal := by
    intro p hwf
    obtain ⟨-, hdiv, -⟩ := (params_wf_iff p).1 hwf
    refine ⟨hdiv, ?_, ?_, ?_, ?_, nil_wf p⟩ <;>
      simp [State.resetWith, Rx.legal, LineCond.legal, Tx.legal, Relay.legal, Relay.resting]
  exact ⟨hreset Params.standard (by decide), hreset⟩

theorem resetStep_legal {s : State} (hwf : s.par.wf = true) : s.takeInput.resetStep.legal :=
  resetIsLegal.2 s.par hwf

-- ---------------------------------------------------------------- the divisor (R8)

theorem divisorOf_ne_zero {p : Params} (hwf : p.wf = true) (v : BitVec 16) : divisorOf p v ≠ 0 := by
  obtain ⟨-, hdiv, -⟩ := (params_wf_iff p).1 hwf
  unfold divisorOf
  split
  · exact hdiv
  · next h => exact h

theorem wf_of_step {s t : State} (h : step s = .next t) : s.par.wf = true := (step_cases s t h).1

/-- Settles O54: SETDIV loads a nonzero divisor, and nothing else writes it. -/
theorem stepKeepsDivisorNonzero : Obligations.StepKeepsDivisorNonzero := by
  intro s t hdiv h
  obtain ⟨hwf, rfl⟩ | hrst := reset_or_not h
  · exact (resetStep_legal hwf).1
  · obtain hd | ⟨v, -, hd⟩ := step_div h hrst
    · rwa [hd]
    · rw [hd]
      exact divisorOf_ne_zero (wf_of_step h) v

-- ---------------------------------------------------------------- the receive machine (10_state.md section 3)

theorem sub_one_le {n : Nat} {c : BitVec n} (h0 : c ≠ 0) : (c - 1).toNat ≤ c.toNat := by
  rw [sub_one_toNat h0]; omega

theorem ofNat_firstSample_toNat (d : BitVec 16) : (BitVec.ofNat 17 (firstSample d)).toNat = firstSample d := by
  have := firstSample_le d
  rw [BitVec.toNat_ofNat, Nat.mod_eq_of_lt (by omega)]

theorem ofNat_firstSample_ne_zero {d : BitVec 16} (h : d ≠ 0) : BitVec.ofNat 17 (firstSample d) ≠ 0 := fun e => by
  have hpos := firstSample_pos h
  have hzero := congrArg BitVec.toNat e
  rw [ofNat_firstSample_toNat] at hzero
  simp at hzero
  omega

theorem bitTime_le (d : BitVec 16) : (bitTime d).toNat ≤ 98302 := by
  have := d.isLt
  rw [bitTime_toNat]; omega

/-- Legality does not speak of the line history, the holding register or its flag. -/
theorem rx_legal_congr {rx : Rx} (prev : Bool) (data : Byte) (ready : Bool) (h : rx.legal) :
    { rx with prev := prev, data := data, ready := ready }.legal := h

theorem rxIdle_legal {d : BitVec 16} (hd : d ≠ 0) (cfg : DataWidth) (lineIn : Bool) {rx : Rx} (h : rx.legal)
    (hidle : rx.state = .idle) : (rxIdle d cfg lineIn rx).legal := by
  obtain ⟨hcnt, hmax, hbit, -⟩ := h
  rw [rxIdle_eq]
  split
  · refine ⟨?_, ?_, by simp, by simp, by simp, by simp⟩
    · simpa using ofNat_firstSample_ne_zero hd
    · rw [ofNat_firstSample_toNat]; exact firstSample_le d
  · exact ⟨hcnt, hmax, hbit, by simp [hidle], by simp [hidle], by simp [hidle]⟩

/-- A legal bit count is below the width wherever a data bit is sampled. -/
theorem rx_bit_lt {rx : Rx} (h : rx.legal) (hstate : rx.state = .startDetected ∨ rx.state = .samplingBits) :
    rx.bit.toNat < dataBits rx.n := by
  obtain ⟨-, -, -, hstart, hsampling, -⟩ := h
  have := (dataBits_le rx.n).1
  rcases hstate with h | h
  · simp [hstart h]; omega
  · exact (hsampling h).2

theorem rxSample_legal {d : BitVec 16} (hd : d ≠ 0) (lineIn : Bool) {rx : Rx} (h : rx.legal)
    (hstate : rx.state = .startDetected ∨ rx.state = .samplingBits) : (rxSample d lineIn rx).legal := by
  have hlt := rx_bit_lt h hstate
  have hle := (dataBits_le rx.n).2
  have hbit : (rx.bit + 1).toNat = rx.bit.toNat + 1 := by bv_omega
  by_cases hlast : rx.bit.toNat + 1 = dataBits rx.n
  · have hstop : (rxSample d lineIn rx).state = .stopCheck := if_pos hlast
    exact ⟨iff_of_false (bitTime_ne_zero hd) (by simp [hstop]), bitTime_le d, hbit.trans_le (by omega),
      by simp [hstop], by simp [hstop], fun _ => hbit.trans hlast⟩
  · have hmore : (rxSample d lineIn rx).state = .samplingBits := if_neg hlast
    have hrange : 1 ≤ (rx.bit + 1).toNat ∧ (rx.bit + 1).toNat < dataBits rx.n := by omega
    exact ⟨iff_of_false (bitTime_ne_zero hd) (by simp [hmore]), bitTime_le d, hbit.trans_le (by omega),
      by simp [hmore], fun _ => hrange, by simp [hmore]⟩

theorem rxStop_legal (lineIn : Bool) {rx : Rx} (h : rx.legal) : (rxStop lineIn rx).legal := by
  obtain ⟨-, -, hbit, -⟩ := h
  cases lineIn <;> exact ⟨by simp [rxStop], by simp [rxStop], by simpa [rxStop], by simp [rxStop], by simp [rxStop],
    by simp [rxStop]⟩

theorem rxTick_legal {d : BitVec 16} (hd : d ≠ 0) (cfg : DataWidth) (lineIn : Bool) {rx : Rx} (h : rx.legal) :
    (rxTick d cfg lineIn rx).legal := by
  obtain ⟨hidle, he⟩ | ⟨hbusy, hmore, he⟩ | ⟨hstate, -, he⟩ | ⟨-, -, he⟩ := rxTick_cases d cfg lineIn rx <;> rw [he]
  · exact rxIdle_legal hd cfg lineIn h hidle
  · obtain ⟨hcnt, hmax, hrest⟩ := h
    refine ⟨iff_of_false hmore hbusy, ?_, hrest⟩
    exact (sub_one_le (mt hcnt.1 hbusy)).trans hmax
  · exact rxSample_legal hd lineIn h hstate
  · exact rxStop_legal lineIn h

theorem restartRx_legal {d : BitVec 16} (hd : d ≠ 0) {rx : Rx} (h : rx.legal) : (restartRx d rx).legal := by
  unfold restartRx
  split
  · exact h
  · next hbusy =>
    obtain ⟨-, -, hrest⟩ := h
    exact ⟨iff_of_false (bitTime_ne_zero hd) hbusy, bitTime_le d, hrest⟩

/-- Settles O55: the engine phase keeps the receive machine legal, and RXGET and SETDIV keep what it left so. -/
theorem stepKeepsReceiverLegal : Obligations.StepKeepsReceiverLegal := by
  intro s t hdiv hlegal h
  obtain ⟨hwf, rfl⟩ | hrst := reset_or_not h
  · obtain ⟨-, hrx, -⟩ := resetStep_legal hwf
    exact hrx
  · have hengine : (enginePhase s.takeInput).rx.legal := by
      rw [enginePhase_rx]
      exact rx_legal_congr _ _ _ (rxTick_legal hdiv _ _ hlegal)
    obtain hrx | ⟨-, hrx⟩ | ⟨v, -, hrx⟩ := step_rx h hrst <;> rw [hrx]
    · exact hengine
    · exact rx_legal_congr _ _ _ hengine
    · exact restartRx_legal (divisorOf_ne_zero (wf_of_step h) v) hengine

-- ---------------------------------------------------------------- the line condition (R51, R52)

theorem step_rx_prev {s t : State} (h : step s = .next t) (hrst : s.nextInput.rst = false) :
    t.rx.prev = s.nextInput.lineIn := by
  obtain hrx | ⟨-, hrx⟩ | ⟨v, -, hrx⟩ := step_rx h hrst
  · simp [hrx]
  · simp [hrx]
  · simp [hrx, restartRx_eq]

theorem lineTick_legal (frame : Nat) (lineIn : Bool) {l : LineCond} (h : l.brk = true → l.fe = true) :
    (lineTick frame lineIn l).legal lineIn := by
  obtain ⟨rfl, he⟩ | ⟨rfl, -, he⟩ | ⟨rfl, -, he⟩ := lineTick_cases frame lineIn l <;> rw [he]
  · simp [LineCond.legal]
  · exact ⟨fun _ => ⟨rfl, lowStep_ne_zero _⟩, by simp⟩
  · exact ⟨fun hb => ⟨h hb, lowStep_ne_zero _⟩, by simp⟩

/-- Settles O56: unit 1 only sets `fe`, and unit 2 leaves a legal line condition. -/
theorem stepKeepsLineConditionLegal : Obligations.StepKeepsLineConditionLegal := by
  intro s t hlegal h
  obtain ⟨hwf, rfl⟩ | hrst := reset_or_not h
  · obtain ⟨-, -, hline, -⟩ := resetStep_legal hwf
    exact hline
  · rw [step_line h hrst, step_rx_prev h hrst, enginePhase_line]
    refine lineTick_legal _ _ fun hbrk => ?_
    rw [engineRx_line_brk] at hbrk
    have hfe : s.line.fe = true := (hlegal.1 hbrk).1
    rw [engineRx_line]
    split
    · rfl
    · exact hfe

-- ---------------------------------------------------------------- the transmit machine (10_state.md section 4)

theorem txFirstBit_legal {d : BitVec 16} (hd : d ≠ 0) (tx : Tx) : (txFirstBit d tx).legal := by
  have hwidth := (dataBits_le tx.n).1
  have hpos : (0 : BitVec 3).toNat < dataBits tx.n := by simp; omega
  exact ⟨iff_of_false (bitTime_ne_zero hd) nofun, nofun, nofun, fun _ => ⟨hpos, rfl⟩, nofun, nofun⟩

theorem txNextBit_legal {d : BitVec 16} (hd : d ≠ 0) {tx : Tx} (h : tx.legal) (hdata : tx.state = .sendData) :
    (txNextBit d tx).legal := by
  obtain ⟨-, -, -, hbit, -⟩ := h
  obtain ⟨hlt, -⟩ := hbit hdata
  have hle := (dataBits_le tx.n).2
  unfold txNextBit
  split
  · next hmore =>
    have hsucc : (tx.bit + 1).toNat = tx.bit.toNat + 1 := by bv_omega
    exact ⟨iff_of_false (bitTime_ne_zero hd) (by simp [hdata]), by simp [hdata], by simp [hdata],
      fun _ => ⟨hsucc.trans_lt hmore, by rw [hsucc]⟩, by simp [hdata], by simp [hdata]⟩
  · next hlast =>
    have hcount : tx.bit.toNat + 1 = dataBits tx.n := by omega
    exact ⟨iff_of_false (bitTime_ne_zero hd) nofun, nofun, nofun, nofun, fun _ => ⟨hcount, rfl⟩, nofun⟩

theorem txTick_legal {d : BitVec 16} (hd : d ≠ 0) {tx : Tx} (h : tx.legal) : (txTick d tx).legal := by
  obtain ⟨hcnt, hidle, hstart, hdata, hstop, hbreak⟩ := id h
  obtain ⟨-, he⟩ | ⟨hbusy, hmore, he⟩ | ⟨-, -, he⟩ | ⟨hs, -, he⟩ | ⟨hs, -, he⟩ | ⟨hs, -, he⟩ := txTick_cases d tx <;>
    rw [he]
  · exact h
  · exact ⟨iff_of_false hmore hbusy, hidle, hstart, hdata, hstop, hbreak⟩
  · exact txFirstBit_legal hd tx
  · exact txNextBit_legal hd h hs
  · exact ⟨iff_of_true rfl rfl, fun _ => ⟨rfl, (hstop hs).2⟩, nofun, nofun, nofun, nofun⟩
  · exact ⟨iff_of_true rfl rfl, fun _ => ⟨(hbreak hs).1, rfl⟩, nofun, nofun, nofun, nofun⟩

theorem restartTx_legal {d : BitVec 16} (hd : d ≠ 0) {tx : Tx} (h : tx.legal) : (restartTx d tx).legal := by
  obtain ⟨hcnt, hrest⟩ := h
  rw [restartTx_eq]
  by_cases hframe : tx.state = .sendStart ∨ tx.state = .sendData ∨ tx.state = .sendStop
  · rw [if_pos hframe]
    exact ⟨iff_of_false (bitTime_ne_zero hd) (by rcases hframe with h | h | h <;> simp [h]), hrest⟩
  · rw [if_neg hframe]
    exact ⟨hcnt, hrest⟩

/-- Settles O57: the engine phase keeps the transmit machine legal, and TXPUT, SENDBRK and SETDIV leave it so. -/
theorem stepKeepsTransmitterLegal : Obligations.StepKeepsTransmitterLegal := by
  intro s t hdiv hlegal h
  obtain ⟨hwf, rfl⟩ | hrst := reset_or_not h
  · obtain ⟨-, -, -, htx, -⟩ := resetStep_legal hwf
    exact htx
  · obtain ⟨-, -, hbreak, -⟩ := (params_wf_iff s.par).1 (wf_of_step h)
    have hengine := txTick_legal hdiv hlegal
    obtain htx | ⟨b, -, -, htx⟩ | ⟨-, -, htx⟩ | ⟨v, -, htx⟩ := step_tx h hrst <;> rw [htx]
    · exact hengine
    · exact ⟨iff_of_false (bitTime_ne_zero hdiv) nofun, nofun, fun _ => ⟨rfl, rfl⟩, nofun, nofun, nofun⟩
    · exact ⟨iff_of_false hbreak nofun, nofun, nofun, nofun, nofun, fun _ => ⟨rfl, rfl⟩⟩
    · exact restartTx_legal (divisorOf_ne_zero (wf_of_step h) v) hengine

-- ---------------------------------------------------------------- the relay sequencer (R76 to R79)

theorem relayTick_of_rest (p : Params) {r : Relay} (h : r.state = .off ∨ r.state = .enabled) : relayTick p r = r := by
  unfold relayTick
  rcases h with h | h <;> rw [h]

theorem relayTick_of_counting (p : Params) {r : Relay} (hrun : r.state = .poweringOn ∨ r.state = .poweringOff)
    (hcnt : r.cnt ≠ 1) : relayTick p r = { r with cnt := r.cnt - 1 } := by
  have hcnt' := mt (sub_one_eq_zero r.cnt).1 hcnt
  unfold relayTick
  rcases hrun with h | h <;> simp only [h, hcnt', if_false]

/-- The iterations of the running sequence (R77, R78). -/
def iterations (p : Params) (r : Relay) : Nat := if r.state = .poweringOn then p.onIters else p.offIters

theorem relayTick_of_phase_end (p : Params) {r : Relay} (hrun : r.state = .poweringOn ∨ r.state = .poweringOff)
    (hcnt : r.cnt = 1) (hphase : r.phase.toNat + 1 < 2 * iterations p r) : relayTick p r = nextPhase p r := by
  have hcnt' := (sub_one_eq_zero r.cnt).2 hcnt
  unfold relayTick
  unfold iterations at hphase
  rcases hrun with h | h <;> simp only [h, hcnt', if_true] <;> exact if_pos (by simpa [h] using hphase)

theorem relayTick_of_on_end (p : Params) {r : Relay} (hrun : r.state = .poweringOn)
    (hphase : 2 * p.onIters ≤ r.phase.toNat + 1) (hcnt : r.cnt = 1) :
    relayTick p r =
      { r with acRelay := true, state := .enabled, phase := 0, cnt := 0, ledA := false, ledB := false } := by
  have hcnt' := (sub_one_eq_zero r.cnt).2 hcnt
  unfold relayTick
  simp only [hrun, hcnt', if_true]
  exact if_neg (Nat.not_lt.2 hphase)

theorem relayTick_of_off_end (p : Params) {r : Relay} (hrun : r.state = .poweringOff)
    (hphase : 2 * p.offIters ≤ r.phase.toNat + 1) (hcnt : r.cnt = 1) :
    relayTick p r =
      { r with loopRelay := false, state := .off, phase := 0, cnt := 0, ledA := false, ledB := false } := by
  have hcnt' := (sub_one_eq_zero r.cnt).2 hcnt
  unfold relayTick
  simp only [hrun, hcnt', if_true]
  exact if_neg (Nat.not_lt.2 hphase)

theorem relay_legal_of_poweringOn {p : Params} {r : Relay} (hs : r.state = .poweringOn) (h : r.blinking p p.onIters) :
    r.legal p := ⟨by simp [hs], by simp [hs], fun _ => h, by simp [hs]⟩

theorem relay_legal_of_poweringOff {p : Params} {r : Relay} (hs : r.state = .poweringOff)
    (h : r.blinking p p.offIters) : r.legal p := ⟨by simp [hs], by simp [hs], by simp [hs], fun _ => h⟩

/-- The next phase of a running sequence blinks. -/
theorem nextPhase_blinking {p : Params} (hwf : p.wf = true) {r : Relay} {iters : Nat} (h : r.blinking p iters)
    (hiters : iters ≤ 8) (hmore : r.phase.toNat + 1 < 2 * iters) : (nextPhase p r).blinking p iters := by
  obtain ⟨-, -, -, hticks, -⟩ := (params_wf_iff p).1 hwf
  obtain ⟨hloop, hac, -⟩ := h
  have hphase : (r.phase + 1).toNat = r.phase.toNat + 1 := by bv_omega
  exact ⟨hloop, hac, hphase.trans_lt hmore, congrArg ledsOf hphase.symm, congrArg ledsOf hphase.symm, hticks,
    BitVec.le_refl _⟩

/-- A step of a phase that does not end it. -/
theorem counting_blinking {p : Params} {r : Relay} {iters : Nat} (h : r.blinking p iters) (hmore : r.cnt - 1 ≠ 0) :
    { r with cnt := r.cnt - 1 }.blinking p iters := by
  obtain ⟨hloop, hac, hphase, hA, hB, hcnt, hmax⟩ := h
  refine ⟨hloop, hac, hphase, hA, hB, hmore, ?_⟩
  exact BitVec.le_def.2 ((sub_one_le hcnt).trans (BitVec.le_def.1 hmax))

theorem relayTick_legal {p : Params} (hwf : p.wf = true) {r : Relay} (h : r.legal p) : (relayTick p r).legal p := by
  obtain ⟨-, -, -, -, -, hon8, -, hoff8, -⟩ := (params_wf_iff p).1 hwf
  obtain ⟨-, -, hon, hpoff⟩ := id h
  obtain ⟨-, he⟩ | ⟨hs | hs, hmore, he⟩ | ⟨hs, -, hmore, he⟩ | ⟨hs, -, hmore, he⟩ | ⟨hs, -, -, he⟩ | ⟨hs, -, -, he⟩ :=
    relayTick_cases p r <;> rw [he]
  · exact h
  · exact relay_legal_of_poweringOn hs (counting_blinking (hon hs) hmore)
  · exact relay_legal_of_poweringOff hs (counting_blinking (hpoff hs) hmore)
  · exact relay_legal_of_poweringOn hs (nextPhase_blinking hwf (hon hs) hon8 hmore)
  · exact relay_legal_of_poweringOff hs (nextPhase_blinking hwf (hpoff hs) hoff8 hmore)
  · obtain ⟨hloop, -⟩ := hon hs
    exact ⟨nofun, fun _ => ⟨⟨rfl, rfl, rfl, rfl⟩, hloop, rfl⟩, nofun, nofun⟩
  · obtain ⟨-, hac, -⟩ := hpoff hs
    exact ⟨fun _ => ⟨⟨rfl, rfl, rfl, rfl⟩, rfl, hac⟩, nofun, nofun, nofun⟩

theorem relayStart_legal {p : Params} (hwf : p.wf = true) {r : Relay} (h : r.legal p) (on : Bool)
    (hrest : r.state = .off ∨ r.state = .enabled) : (relayStart p on r).legal p := by
  obtain ⟨-, -, -, hticks, hon1, -, hoff1, -⟩ := (params_wf_iff p).1 hwf
  obtain ⟨hoff, henabled, -, -⟩ := id h
  cases on <;> rcases hrest with hs | hs
  · rwa [relayStart_off_of_off p hs]
  · obtain ⟨-, hloop, -⟩ := henabled hs
    rw [relayStart_off_of_enabled p hs]
    have hpos : 0 < 2 * p.offIters := by omega
    exact relay_legal_of_poweringOff rfl ⟨hloop, rfl, hpos, rfl, rfl, hticks, BitVec.le_refl _⟩
  · obtain ⟨-, -, hac⟩ := hoff hs
    rw [relayStart_on_of_off p hs]
    have hpos : 0 < 2 * p.onIters := by omega
    exact relay_legal_of_poweringOn rfl ⟨rfl, hac, hpos, rfl, rfl, hticks, BitVec.le_refl _⟩
  · rwa [relayStart_on_of_enabled p hs]

theorem rest_iff (r : RelayState) : (r ≠ .poweringOn ∧ r ≠ .poweringOff) ↔ (r = .off ∨ r = .enabled) := by
  cases r <;> simp

theorem step_relay_legal {s t : State} (hlegal : s.relay.legal s.par) (h : step s = .next t) :
    t.relay.legal t.par := by
  obtain ⟨hwf, rfl⟩ | hrst := reset_or_not h
  · obtain ⟨-, -, -, -, hrelay, -⟩ := resetStep_legal hwf
    exact hrelay
  · have hwf := wf_of_step h
    have hengine := relayTick_legal hwf hlegal
    rw [step_par s t h]
    obtain hr | ⟨on, -, hon, hoff, hr⟩ := step_relay h hrst <;> rw [hr]
    · exact hengine
    · exact relayStart_legal hwf hengine on ((rest_iff _).1 ⟨hon, hoff⟩)

/-- In the output table the AC relay is on in `ENABLED` alone, where the loop relay is. -/
theorem loopRelay_of_acRelay {p : Params} {r : Relay} (h : r.legal p) (hac : r.acRelay = true) : r.loopRelay = true := by
  obtain ⟨hoff, henabled, hon, hpoff⟩ := h
  cases hs : r.state with
  | off =>
    obtain ⟨-, -, hacOff⟩ := hoff hs
    simp [hacOff] at hac
  | enabled =>
    obtain ⟨-, hloop, -⟩ := henabled hs
    exact hloop
  | poweringOn => exact (hon hs).1
  | poweringOff => exact (hpoff hs).1

/-- At rest only the RELAY that starts a sequence moves the sequencer. -/
theorem step_relay_of_rest {s t : State} (h : step s = .next t) (hrst : s.nextInput.rst = false)
    (hrest : s.relay.state = .off ∨ s.relay.state = .enabled) :
    t.relay = s.relay ∨ ∃ on, s.performs (.relay on) ∧ t.relay = relayStart s.par on s.relay := by
  obtain hr | ⟨on, hp, -, -, hr⟩ := step_relay h hrst <;> rw [relayTick_of_rest s.par hrest] at hr
  · exact .inl hr
  · exact .inr ⟨on, hp, hr⟩

theorem step_relay_of_off {s t : State} (h : step s = .next t) (hrst : s.nextInput.rst = false)
    (hoff : s.relay.state = .off) : t.relay = s.relay ∨ s.performs (.relay true) := by
  obtain hr | ⟨on, hp, hr⟩ := step_relay_of_rest h hrst (.inl hoff)
  · exact .inl hr
  · cases on with
    | true => exact .inr hp
    | false => exact .inl (hr.trans (relayStart_off_of_off s.par hoff))

theorem step_relay_of_enabled {s t : State} (h : step s = .next t) (hrst : s.nextInput.rst = false)
    (henabled : s.relay.state = .enabled) : t.relay = s.relay ∨ s.performs (.relay false) := by
  obtain hr | ⟨on, hp, hr⟩ := step_relay_of_rest h hrst (.inr henabled)
  · exact .inl hr
  · cases on with
    | true => exact .inl (hr.trans (relayStart_on_of_enabled s.par henabled))
    | false => exact .inr hp

/-- Settles O58: the sequencer's step, what leaves its resting states, and its output table. -/
theorem stepKeepsRelayTable : Obligations.StepKeepsRelayTable := by
  refine ⟨fun s => ?_, fun s t h hrst => ⟨step_relay_of_off h hrst, step_relay_of_enabled h hrst⟩,
    fun s t hlegal h => ?_⟩
  · rw [enginePhase_relay]
    refine ⟨relayTick_of_rest s.par, relayTick_of_counting s.par, ?_, relayTick_of_on_end s.par,
      relayTick_of_off_end s.par⟩
    rintro (⟨hs, hmore⟩ | ⟨hs, hmore⟩) hcnt
    · exact relayTick_of_phase_end s.par (.inl hs) hcnt (by simpa [iterations, hs])
    · exact relayTick_of_phase_end s.par (.inr hs) hcnt (by simpa [iterations, hs])
  · have ht := step_relay_legal hlegal h
    exact ⟨ht, loopRelay_of_acRelay ht⟩

-- ---------------------------------------------------------------- the table RAM (20_memory.md section 1)

/-- Settles O59: a write keeps the canonical form, and TBLWR writes at a slot's address. -/
theorem stepKeepsTableCanonical : Obligations.StepKeepsTableCanonical := by
  intro s t hwf h
  obtain ⟨-, rfl⟩ | hrst := reset_or_not h
  · exact nil_wf _
  · rw [step_par s t h]
    obtain ht | ⟨tsel, k, i, b, n, -, -, ht⟩ := step_tbl h hrst <;> rw [ht]
    · exact hwf
    · exact write_wf s.par s.tbl _ b hwf (slotAddr_lt n k i)

theorem val_of_tableOf {tsel : BitVec 3} {n : Fin 7} (h : tableOf tsel = some n) : n.val = tsel.toNat := by
  unfold tableOf at h
  split at h
  · cases h; rfl
  · cases h

/-- Settles O47: the one write of a step is its TBLWR's, at its slot's address. -/
theorem onlyTblwrWritesTheTable : Obligations.OnlyTblwrWritesTheTable := by
  intro s t h hrst
  rw [step_par s t h]
  obtain ht | ⟨tsel, k, i, b, n, hp, hn, ht⟩ := step_tbl h hrst <;> rw [ht]
  · exact ⟨fun _ _ => rfl, fun _ _ _ _ _ _ _ => rfl⟩
  · refine ⟨fun hno => absurd hp (hno tsel k i b), fun tsel' k' i' b' hp' a ha => ?_⟩
    cases performs_inj hp hp'
    exact write_read_other s.par s.tbl _ a b (ha n (val_of_tableOf hn))

end Sys2Proof.Proofs.Invariants

/-! The Baudot Codec over more than one command: a character given to ENC and its codes given to DEC (42_codec.md section
5), and the control slots that neither reads (section 1). -/

namespace Sys2Proof.Proofs.CodecLaws

open Sys2Proof Sys2Proof.Machine
open Sys2Proof.Proofs.Codec Sys2Proof.Proofs.Steps

-- ---------------------------------------------------------------- the round trip

/-- What a found index is: no control slot, and the slot of a character other than `UNUSED`. -/
theorem slot_of_find {s : State} {n : Fin 7} {k : Bank} {c : Byte} {i : Code} (h : s.find n k c = some i) :
    i ≠ s.par.ltrsCode ∧ i ≠ s.par.figsCode ∧ c ≠ s.par.unused ∧ s.tblRead n k i = c :=
  (holds_iff s n k c i).1 ((find_eq_some_iff s n k c i).1 h).1

/-- With equal shift states, both directions unshift on space alike. -/
theorem sendAfter_eq_recvAfter {s : State} (h : s.codec.sendShift = s.codec.recvShift) (c : Byte) :
    s.sendAfter c = s.recvAfter c := by
  rw [sendAfter_eq, recvAfter_eq, h]

/-- What ENC leaves when it gives the data code `i` of the character `c`. -/
def afterDataCode (s : State) (c : Byte) (i : Code) : State :=
  { s with codec := { s.codec with sendShift := s.sendAfter c } }.respond (encResponse (s.sendAfter c) false false true i)

/-- What ENC leaves when it gives the code of the shift to `q`. -/
def afterShiftCode (s : State) (q : ShiftState) : State :=
  { s with codec := { s.codec with sendShift := q } }.respond (encResponse q false true true (shiftCode s.par q))

/-- What DEC of the code of the shift to `q` leaves. -/
def afterShift (s : State) (q : ShiftState) : State :=
  { s with codec := { s.codec with recvShift := q } }.respond (decResponse false q true false 0)

theorem afterDataCode_response (s : State) (c : Byte) (i : Code) :
    responseCode (afterDataCode s c i).rspData = i ∧ (afterDataCode s c i).rspData.getLsbD 5 = true ∧
    (afterDataCode s c i).rspData.getLsbD 6 = false := by
  simp [afterDataCode, responseCode]

theorem afterShiftCode_response (s : State) (q : ShiftState) :
    responseCode (afterShiftCode s q).rspData = shiftCode s.par q ∧ (afterShiftCode s q).rspData.getLsbD 5 = true ∧
    (afterShiftCode s q).rspData.getLsbD 6 = true := by
  simp [afterShiftCode, responseCode]

theorem afterShift_response (s : State) (q : ShiftState) : (afterShift s q).rspData.getLsbD 9 = true := by
  simp [afterShift]

/-- A character of the current bank: ENC gives its data code, and DEC of that code delivers it. -/
theorem enc_dec_of_current {s : State} {c : Byte} {i : Code} (hshift : s.codec.sendShift = s.codec.recvShift)
    (hfind : s.find s.codec.sel (bankOf s.codec.sendShift) c = some i) :
    exec (.enc c) s = .next (afterDataCode s c i) ∧
      ∃ t, exec (.dec (responseCode (afterDataCode s c i).rspData)) (afterDataCode s c i) = .next t ∧ t.delivered c := by
  obtain ⟨hltrs, hfigs, hunused, hread⟩ := slot_of_find hfind
  rw [hshift] at hread
  rw [(afterDataCode_response s c i).1]
  refine ⟨exec_enc_of_current hfind, _, exec_dec_of_char (s := afterDataCode s c i) hltrs hfigs hread hunused, ?_⟩
  exact ⟨rfl, by simp, by simp, sendAfter_eq_recvAfter hshift c⟩

/-- DEC of a shift code sets the receive shift to it, and says so in CTRL. -/
theorem exec_dec_shiftCode {s : State} (hwf : s.par.wf = true) (q : ShiftState) :
    exec (.dec (shiftCode s.par q)) s = .next (afterShift s q) := by
  obtain ⟨-, -, -, -, -, -, -, -, hcodes, -⟩ := (params_wf_iff s.par).1 hwf
  cases q with
  | ltrs => exact exec_dec_ltrs s
  | figs => exact exec_dec_figs hcodes.symm

/-- A character of the other bank alone: ENC gives the shift code, and DEC of it makes the other bank the current one of
both directions. -/
theorem enc_dec_of_other {s : State} {c : Byte} (hwf : s.par.wf = true)
    (hcurrent : s.find s.codec.sel (bankOf s.codec.sendShift) c = none)
    (hother : s.find s.codec.sel (bankOf (otherShift s.codec.sendShift)) c ≠ none) :
    exec (.enc c) s = .next (afterShiftCode s (otherShift s.codec.sendShift)) ∧
    exec (.dec (responseCode (afterShiftCode s (otherShift s.codec.sendShift)).rspData))
      (afterShiftCode s (otherShift s.codec.sendShift)) =
        .next (afterShift (afterShiftCode s (otherShift s.codec.sendShift)) (otherShift s.codec.sendShift)) := by
  rw [(afterShiftCode_response s _).1]
  exact ⟨exec_enc_of_other hcurrent hother, exec_dec_shiftCode (s := afterShiftCode s _) hwf _⟩

theorem bank_cases (q : ShiftState) (k : Bank) : k = bankOf q ∨ k = bankOf (otherShift q) := by
  cases q <;> cases k <;> simp [bankOf, otherShift]

/-- Settles O48: a character of the other bank is one of the current bank after its shift code. -/
theorem encThenDecRoundTrips : Obligations.EncThenDecRoundTrips := by
  intro s c hwf hshift ⟨k, hk⟩
  cases hcurrent : s.find s.codec.sel (bankOf s.codec.sendShift) c with
  | some i =>
    obtain ⟨henc, t, hdec, ht⟩ := enc_dec_of_current hshift hcurrent
    obtain ⟨-, hvalid, hdata⟩ := afterDataCode_response s c i
    exact ⟨_, henc, hvalid, .inl ⟨hdata, t, hdec, ht⟩⟩
  | none =>
    have hother : s.find s.codec.sel (bankOf (otherShift s.codec.sendShift)) c ≠ none := by
      obtain rfl | rfl := bank_cases s.codec.sendShift k
      · exact absurd hcurrent hk
      · exact hk
    obtain ⟨henc₁, hdec₁⟩ := enc_dec_of_other hwf hcurrent hother
    obtain ⟨-, hvalid₁, hshift₁⟩ := afterShiftCode_response s (otherShift s.codec.sendShift)
    obtain ⟨i, hi⟩ := Option.ne_none_iff_exists'.1 hother
    obtain ⟨henc, t, hdec, ht⟩ := enc_dec_of_current (c := c) (i := i)
      (s := afterShift (afterShiftCode s (otherShift s.codec.sendShift)) (otherShift s.codec.sendShift)) rfl hi
    obtain ⟨-, hvalid, hdata⟩ := afterDataCode_response _ c i
    exact ⟨_, henc₁, hvalid₁, .inr ⟨hshift₁, _, _, t, hdec₁, afterShift_response _ _, henc, hvalid, hdata, hdec, ht⟩⟩

-- ---------------------------------------------------------------- the control slots

section ControlSlots

variable {s : State} {i : Code} (hi : i = s.par.ltrsCode ∨ i = s.par.figsCode) (n : Fin 7) (k : Bank) (v : Byte)
include hi

/-- The search skips the control slots, so a byte written in one does not change it. -/
theorem find_tblWrite_control (n' : Fin 7) (k' : Bank) (c : Byte) :
    (s.tblWrite n k i v).find n' k' c = s.find n' k' c := by
  have hholds : (s.tblWrite n k i v).holds n' k' c = s.holds n' k' c := by
    funext j
    rw [Bool.eq_iff_iff, holds_iff, holds_iff, tblWrite_par]
    by_cases hj : j = i
    · subst hj
      rcases hi with h | h <;> simp [h]
    · rw [tblWrite_tblRead_other s n n' k k' i j v fun ⟨_, _, hcode⟩ => hj hcode]
  rw [State.find, State.find, hholds]

theorem exec_enc_tblWrite_control {c : Byte} {t : State} (h : exec (.enc c) s = .next t) :
    exec (.enc c) (s.tblWrite n k i v) = .next (t.tblWrite n k i v) := by
  have hfind := find_tblWrite_control hi n k v
  cases hcurrent : s.find s.codec.sel (bankOf s.codec.sendShift) c with
  | some j =>
    rw [exec_enc_of_current hcurrent] at h
    rw [exec_enc_of_current ((hfind ..).trans hcurrent), ← next_inj h]
    rfl
  | none =>
    have hcurrent' := (hfind s.codec.sel (bankOf s.codec.sendShift) c).trans hcurrent
    by_cases hother : s.find s.codec.sel (bankOf (otherShift s.codec.sendShift)) c = none
    · rw [exec_enc_of_dropped hcurrent hother] at h
      rw [exec_enc_of_dropped hcurrent' ((hfind ..).trans hother), ← next_inj h]
      rfl
    · rw [exec_enc_of_other hcurrent hother] at h
      rw [exec_enc_of_other hcurrent' (by rw [tblWrite_codec, hfind]; exact hother), ← next_inj h]
      rfl

theorem exec_dec_tblWrite_control {code : Code} {t : State} (h : exec (.dec code) s = .next t) :
    exec (.dec code) (s.tblWrite n k i v) = .next (t.tblWrite n k i v) := by
  by_cases hltrs : code = s.par.ltrsCode
  · subst hltrs
    rw [exec_dec_ltrs] at h
    rw [← next_inj h]
    exact exec_dec_ltrs (s.tblWrite n k i v)
  by_cases hfigs : code = s.par.figsCode
  · subst hfigs
    rw [exec_dec_figs hltrs] at h
    rw [← next_inj h]
    exact exec_dec_figs (s := s.tblWrite n k i v) hltrs
  have hcode : code ≠ i := by
    rintro rfl
    exact hi.elim hltrs hfigs
  have hread : (s.tblWrite n k i v).tblRead s.codec.sel (bankOf s.codec.recvShift) code =
      s.tblRead s.codec.sel (bankOf s.codec.recvShift) code :=
    tblWrite_tblRead_other s n _ k _ i code v fun ⟨_, _, hsame⟩ => hcode hsame
  by_cases hunused : s.tblRead s.codec.sel (bankOf s.codec.recvShift) code = s.par.unused
  · rw [exec_dec_of_unused hltrs hfigs hunused] at h
    rw [← next_inj h]
    exact exec_dec_of_unused (s := s.tblWrite n k i v) hltrs hfigs (hread.trans hunused)
  · rw [exec_dec_of_char hltrs hfigs rfl hunused] at h
    rw [← next_inj h]
    exact exec_dec_of_char (s := s.tblWrite n k i v) hltrs hfigs hread hunused

end ControlSlots

/-- Settles O41. -/
theorem controlSlotsAreNeverUsed : Obligations.ControlSlotsAreNeverUsed := fun _ n k _ v hi =>
  ⟨fun _ _ => exec_enc_tblWrite_control hi n k v, fun _ _ => exec_dec_tblWrite_control hi n k v⟩

end Sys2Proof.Proofs.CodecLaws

/-! What no rule reads: the relay sequencer (43_relay.md section 1) and the inputs `forced_in` and `mode_in` (section 4)
reach nothing but the responses that show them. -/

namespace Sys2Proof.Proofs.Noninterference

open Sys2Proof Sys2Proof.Machine
open Sys2Proof.Proofs.BitTiming Sys2Proof.Proofs.Framer Sys2Proof.Proofs.Codec Sys2Proof.Proofs.RelaySequencer
open Sys2Proof.Proofs.Steps Sys2Proof.Proofs.FramerSteps Sys2Proof.Proofs.Exceptions Sys2Proof.Proofs.Invariants

/-- The state with another relay sequencer and other inputs of the step in progress. -/
def withOther (s : State) (r : Relay) (j : StepInput) : State := { s with relay := r, inp := j }

-- ---------------------------------------------------------------- the engine phase

section EnginePhase

variable (s : State) (r : Relay) {j : StepInput}

theorem setNowIf_withOther (j : StepInput) (c : Bool) (b : StickyBit) :
    (withOther s r j).setNowIf c b = withOther (s.setNowIf c b) r j := by cases c <;> rfl

theorem engineRx_withOther (hline : j.lineIn = s.inp.lineIn) :
    engineRx (withOther s r j) = withOther (engineRx s) r j := by
  rw [engineRx_eq, engineRx_eq]
  simp [withOther, hline]

theorem engineLine_withOther (hline : j.lineIn = s.inp.lineIn) :
    engineLine (withOther s r j) = withOther (engineLine s) r j := by
  unfold engineLine
  rw [← setNowIf_withOther]
  simp [withOther, hline]

theorem engineHistory_withOther (hline : j.lineIn = s.inp.lineIn) :
    engineHistory (withOther s r j) = withOther (engineHistory s) r j := by
  simp [engineHistory, withOther, hline]

theorem engineHostBreak_withOther (hbrk : j.hostBrkIn = s.inp.hostBrkIn) :
    engineHostBreak (withOther s r j) = withOther (engineHostBreak s) r j := by
  unfold engineHostBreak
  rw [← setNowIf_withOther]
  simp [withOther, hbrk]

/-- The engine phase moves the other sequencer by itself, and everything else alike. -/
theorem enginePhase_withOther (hline : j.lineIn = s.inp.lineIn) (hbrk : j.hostBrkIn = s.inp.hostBrkIn) :
    enginePhase (withOther s r j) = withOther (enginePhase s) (relayTick s.par r) j := by
  unfold enginePhase
  rw [engineRx_withOther s r hline, engineLine_withOther _ r (by simpa using hline),
    engineHistory_withOther _ r (by simpa using hline), engineHostBreak_withOther _ r (by simpa using hbrk)]
  simp [engineTx, engineRelay, withOther]

end EnginePhase

-- ---------------------------------------------------------------- the command phase

/-- The commands that answer STATUS (R64, R65). -/
def showsStatus (i : Instr) : Prop := i = .rdreg 0 ∨ ∃ m, i = .clrst m

/-- The register a read answers is the same but for STATUS, which shows the inputs, and RELAY. -/
theorem readReg_withOther (e : State) (r : Relay) (j : StepInput) (reg : BitVec 3)
    (hstatus : reg = 0 → j = e.inp) (hrelay : reg ≠ 4) : (withOther e r j).readReg reg = e.readReg reg := by
  unfold State.readReg
  split
  case h_1 h =>
    rw [hstatus (BitVec.eq_of_toNat_eq h)]
    rfl
  case h_5 h => exact absurd (BitVec.eq_of_toNat_eq h) hrelay
  all_goals rfl

/-- Whether a command other than RELAY is refused does not depend on the sequencer or the inputs. -/
theorem refusal_withOther (e : State) (r : Relay) (j : StepInput) {i : Instr} (hrelay : ∀ on, i ≠ .relay on) :
    refusal (withOther e r j) i = refusal e i := by
  cases i with
  | relay on => exact absurd rfl (hrelay on)
  | _ => rfl

theorem raisesOn_withOther (e : State) (r : Relay) (j : StepInput) (i : Instr) :
    raisesOn (withOther e r j) i = withOther (raisesOn e i) r j := by cases i <;> rfl

section Commands

variable {e t : State} (r : Relay) (j : StepInput)

theorem exec_refused_withOther {i : Instr} {c : CmdError} (hrelay : ∀ on, i ≠ .relay on) (h : refusal e i = some c) :
    exec i (withOther e r j) = .next (withOther ((raisesOn e i).raise c) r j) := by
  rw [exec_of_refusal_some ((refusal_withOther e r j hrelay).trans h), raisesOn_withOther]
  rfl

theorem exec_rdreg_withOther {reg : BitVec 3} (h : exec (.rdreg reg) e = .next t) (hok : ¬ 6 ≤ reg.toNat) :
    ∃ v, exec (.rdreg reg) (withOther e r j) = .next { withOther t r j with rspData := v } ∧
      ((reg = 0 → j = e.inp) → reg ≠ 4 → v = t.rspData) := by
  obtain ⟨v, hv⟩ := Option.ne_none_iff_exists'.1 (mt (readReg_eq_none_iff e reg).1 hok)
  obtain ⟨v', hv'⟩ := Option.ne_none_iff_exists'.1 (mt (readReg_eq_none_iff (withOther e r j) reg).1 hok)
  cases next_inj ((exec_rdreg_of_some hv).symm.trans h)
  refine ⟨v', exec_rdreg_of_some hv', fun hstatus hne => ?_⟩
  exact Option.some.inj (hv'.symm.trans ((readReg_withOther e r j reg hstatus hne).trans hv))

theorem exec_enc_withOther {c : Byte} (h : exec (.enc c) e = .next t) :
    exec (.enc c) (withOther e r j) = .next (withOther t r j) := by
  cases hcurrent : e.find e.codec.sel (bankOf e.codec.sendShift) c with
  | some k =>
    cases next_inj ((exec_enc_of_current hcurrent).symm.trans h)
    exact exec_enc_of_current (s := withOther e r j) hcurrent
  | none =>
    by_cases hother : e.find e.codec.sel (bankOf (otherShift e.codec.sendShift)) c = none
    · cases next_inj ((exec_enc_of_dropped hcurrent hother).symm.trans h)
      exact exec_enc_of_dropped (s := withOther e r j) hcurrent hother
    · cases next_inj ((exec_enc_of_other hcurrent hother).symm.trans h)
      exact exec_enc_of_other (s := withOther e r j) hcurrent hother

theorem exec_dec_withOther {code : Code} (h : exec (.dec code) e = .next t) :
    exec (.dec code) (withOther e r j) = .next (withOther t r j) := by
  by_cases hltrs : code = e.par.ltrsCode
  · subst hltrs
    cases next_inj ((exec_dec_ltrs e).symm.trans h)
    exact exec_dec_ltrs (withOther e r j)
  by_cases hfigs : code = e.par.figsCode
  · subst hfigs
    cases next_inj ((exec_dec_figs hltrs).symm.trans h)
    exact exec_dec_figs (s := withOther e r j) hltrs
  by_cases hunused : e.tblRead e.codec.sel (bankOf e.codec.recvShift) code = e.par.unused
  · cases next_inj ((exec_dec_of_unused hltrs hfigs hunused).symm.trans h)
    exact exec_dec_of_unused (s := withOther e r j) hltrs hfigs hunused
  · cases next_inj ((exec_dec_of_char hltrs hfigs rfl hunused).symm.trans h)
    exact exec_dec_of_char (s := withOther e r j) hltrs hfigs rfl hunused

/-- A command other than RELAY does the same whatever the sequencer and the inputs are, but for the register that an RDREG
or a CLRST answers. -/
theorem exec_withOther {i : Instr} (h : exec i e = .next t) (hrelay : ∀ on, i ≠ .relay on) :
    ∃ v, exec i (withOther e r j) = .next { withOther t r j with rspData := v } ∧
      ((showsStatus i → j = e.inp) → i ≠ .rdreg 4 → v = t.rspData) := by
  obtain ⟨hnone, -⟩ | ⟨c, hsome, rfl⟩ := exec_cases h
  · cases i <;> simp only [refusal, ite_eq_right_iff, reduceCtorEq, imp_false, not_not] at hnone
    case relay on => exact absurd rfl (hrelay on)
    case rdreg reg =>
      obtain ⟨v, hexec, hv⟩ := exec_rdreg_withOther r j h hnone
      exact ⟨v, hexec, fun hstatus hne => hv (fun h0 => hstatus (.inl (by rw [h0]))) (fun h4 => hne (by rw [h4]))⟩
    case clrst m =>
      cases next_inj h
      exact ⟨_, exec_clrst m (withOther e r j), fun hstatus _ => by rw [hstatus (.inr ⟨m, rfl⟩)]; rfl⟩
    case txput b =>
      cases next_inj ((exec_txput_of_idle b e hnone).symm.trans h)
      exact ⟨_, exec_txput_of_idle b (withOther e r j) hnone, fun _ _ => rfl⟩
    case rxget =>
      have hready : e.rx.ready = true := by simpa using hnone
      cases next_inj ((exec_rxget_of_ready e hready).symm.trans h)
      exact ⟨_, exec_rxget_of_ready (withOther e r j) hready, fun _ _ => rfl⟩
    case sendbrk =>
      cases next_inj ((exec_sendbrk_of_free hnone).symm.trans h)
      exact ⟨_, exec_sendbrk_of_free (s := withOther e r j) hnone, fun _ _ => rfl⟩
    case enc c => exact ⟨_, exec_enc_withOther (t := t) r j h, fun _ _ => rfl⟩
    case dec c => exact ⟨_, exec_dec_withOther (t := t) r j h, fun _ _ => rfl⟩
    case tblwr tsel k i b =>
      obtain ⟨n, hn⟩ := exists_table_of_ne_seven hnone
      cases next_inj ((exec_tblwr_of_table hn k i b e).symm.trans h)
      exact ⟨_, exec_tblwr_of_table hn k i b (withOther e r j), fun _ _ => rfl⟩
    case tblrd tsel k i =>
      obtain ⟨n, hn⟩ := exists_table_of_ne_seven hnone
      cases next_inj ((exec_tblrd_of_table hn k i e).symm.trans h)
      exact ⟨_, exec_tblrd_of_table hn k i (withOther e r j), fun _ _ => rfl⟩
    case nop | setdiv | setwid | setsh | setusos | setsel =>
      cases next_inj h
      exact ⟨_, rfl, fun _ _ => rfl⟩
  · exact ⟨_, exec_refused_withOther r j hrelay hsome, fun _ _ => rfl⟩

end Commands

/-- RELAY writes the sequencer and the response, and nothing else. -/
theorem exec_relay_frame {on : Bool} {s t : State} (h : exec (.relay on) s = .next t) :
    ∃ r err data, t = { s with relay := r, rspErr := err, rspData := data } := by
  by_cases hrun : s.relay.state = .poweringOn ∨ s.relay.state = .poweringOff
  · exact ⟨_, _, _, next_inj (h.symm.trans (exec_relay_of_running on hrun))⟩
  · exact ⟨_, _, _, next_inj (h.symm.trans (if_neg hrun))⟩

/-- RELAY does the same whatever the inputs are, but for the register it answers. -/
theorem exec_relay_withInput {on : Bool} {e t : State} (j : StepInput) (h : exec (.relay on) e = .next t) :
    ∃ v, exec (.relay on) (withOther e e.relay j) = .next { t with inp := j, rspData := v } := by
  by_cases hrun : e.relay.state = .poweringOn ∨ e.relay.state = .poweringOff
  · cases next_inj ((exec_relay_of_running on hrun).symm.trans h)
    exact ⟨_, exec_relay_of_running (s := withOther e e.relay j) on hrun⟩
  · cases next_inj ((if_neg hrun).symm.trans h)
    exact ⟨_, if_neg hrun⟩

-- ---------------------------------------------------------------- the step

/-- Two states that agree but for the sequencer and the inputs that only show: the step of one, told by the step of the
other. -/
theorem step_withOther {s s' t : State} {r : Relay} {j : StepInput} (htake : s'.takeInput = withOther s.takeInput r j)
    (hrst : j.rst = s.nextInput.rst) (hvalid : j.cmdValid = s.nextInput.cmdValid) (hcmd : j.cmd = s.nextInput.cmd)
    (hline : j.lineIn = s.nextInput.lineIn) (hbrk : j.hostBrkIn = s.nextInput.hostBrkIn) (h : step s = .next t) :
    step s' = .next { t with inp := j } ∨
    (t.relay = relayTick s.par s.relay ∧ step s' = .next (withOther t (relayTick s.par r) j)) ∨
    ∃ i, s.performs i ∧ exec i (enginePhase s.takeInput) = .next t ∧
      step s' = exec i (withOther (enginePhase s.takeInput) (relayTick s.par r) j) := by
  have hpar : s'.par = s.par := by rw [← takeInput_par s', htake]; rfl
  have hnext : s'.nextInput = j := by rw [← takeInput_inp s', htake]; rfl
  have hengine : enginePhase s'.takeInput = withOther (enginePhase s.takeInput) (relayTick s.par r) j := by
    rw [htake]
    exact enginePhase_withOther _ r (by simpa using hline) (by simpa using hbrk)
  obtain ⟨hwf, hcases⟩ := step_cases s t h
  rw [← hpar] at hwf
  rw [← hnext] at hrst hvalid hcmd
  obtain ⟨hr, rfl⟩ | ⟨hr, hv, rfl⟩ | ⟨hr, hv, hd, rfl⟩ | ⟨hr, hv, i, hd, he⟩ := hcases
  · left
    rw [step_of_reset hwf (hrst.trans hr), htake]
    rfl
  · refine .inr (.inl ⟨by simp, ?_⟩)
    rw [step_of_no_reset s' hwf (hrst.trans hr), hengine]
    exact commandPhase_of_no_command _ (by rw [← hvalid, hnext] at hv; exact hv)
  · refine .inr (.inl ⟨by simp, ?_⟩)
    rw [step_of_no_reset s' hwf (hrst.trans hr), hengine]
    exact commandPhase_of_decode_error (by rw [← hvalid, hnext] at hv; exact hv) (by rw [← hcmd, hnext] at hd; exact hd)
  · right; right
    have hp : s'.performs i := ⟨hrst.trans hr, hvalid.trans hv, by rw [hcmd, hd]⟩
    exact ⟨i, ⟨hr, hv, hd⟩, he, by rw [step_of_performs hwf hp, hengine]⟩

/-- The inputs a step leaves are those it read, and the engine phase leaves them too. -/
theorem step_inp {s t : State} (h : step s = .next t) : t.inp = s.nextInput := by
  obtain ⟨-, ⟨-, rfl⟩ | ⟨-, -, rfl⟩ | ⟨-, -, -, rfl⟩ | ⟨-, -, i, -, he⟩⟩ := step_cases s t h
  · simp
  · simp
  · simp
  · obtain ⟨-, hinp, -⟩ := exec_environment i _ t he
    simp [hinp]

/-- Settles O52: the other sequencer reaches the command phase, where only RELAY and a read of its register see it. -/
theorem relayIsReadByNoOtherUnit : Obligations.RelayIsReadByNoOtherUnit := by
  intro s t r h
  have hinp := step_inp h
  have htake : State.takeInput { s with relay := r } = withOther s.takeInput r t.inp := by rw [hinp]; rfl
  obtain hs' | ⟨-, hs'⟩ | ⟨i, hp, he, hs'⟩ :=
    step_withOther htake (by rw [hinp]) (by rw [hinp]) (by rw [hinp]) (by rw [hinp]) (by rw [hinp]) h
  · exact ⟨_, hs', rfl, fun _ => rfl, fun _ _ => rfl⟩
  · exact ⟨_, hs', rfl, fun _ => rfl, fun _ _ => rfl⟩
  · by_cases hrelay : ∃ on, i = .relay on
    · obtain ⟨on, rfl⟩ := hrelay
      obtain ⟨t', ht'⟩ := exec_answers (.relay on) (withOther (enginePhase s.takeInput) (relayTick s.par r) t.inp)
      refine ⟨t', hs'.trans ht', ?_, fun hno => absurd hp (hno on), fun hno => absurd hp (hno on)⟩
      obtain ⟨_, _, _, rfl⟩ := exec_relay_frame ht'
      obtain ⟨_, _, _, rfl⟩ := exec_relay_frame he
      rfl
    · obtain ⟨v, hexec, hv⟩ := exec_withOther (relayTick s.par r) t.inp he (fun on hon => hrelay ⟨on, hon⟩)
      refine ⟨_, hs'.trans hexec, rfl, fun _ => rfl, fun _ hrdreg => hv (fun _ => ?_) fun hi => hrdreg (hi ▸ hp)⟩
      rw [hinp, enginePhase_inp, takeInput_inp]

/-- Settles O53: the other inputs reach the command phase, where only the commands that show them see them. -/
theorem forcedAndModeAreOnlyRead : Obligations.ForcedAndModeAreOnlyRead := by
  intro s t i rest f m hinputs h
  have hnext : s.nextInput = i := nextInput_cons s i rest hinputs
  have htake : State.takeInput { s with inputs := { i with forcedIn := f, modeIn := m } :: rest } =
      withOther s.takeInput s.relay { i with forcedIn := f, modeIn := m } := by
    simp [State.takeInput, State.nextInput, withOther, hinputs]
  obtain hs' | ⟨hrelay, hs'⟩ | ⟨c, hp, he, hs'⟩ :=
    step_withOther htake (by rw [hnext]) (by rw [hnext]) (by rw [hnext]) (by rw [hnext]) (by rw [hnext]) h
  · exact ⟨_, hs', rfl, fun _ _ _ _ => rfl⟩
  · rw [← hrelay] at hs'
    exact ⟨_, hs', rfl, fun _ _ _ _ => rfl⟩
  · have hengine : relayTick s.par s.relay = (enginePhase s.takeInput).relay := by simp
    rw [hengine] at hs'
    by_cases hrelay : ∃ on, c = .relay on
    · obtain ⟨on, rfl⟩ := hrelay
      obtain ⟨v, hexec⟩ := exec_relay_withInput { i with forcedIn := f, modeIn := m } he
      exact ⟨_, hs'.trans hexec, rfl, fun _ _ _ hno => absurd hp (hno on)⟩
    · have hkept : t.relay = (enginePhase s.takeInput).relay := by
        obtain hkept | ⟨on, hon, -⟩ := exec_relay c _ t he
        · exact hkept
        · exact absurd ⟨on, hon⟩ hrelay
      obtain ⟨v, hexec, hv⟩ := exec_withOther (enginePhase s.takeInput).relay { i with forcedIn := f, modeIn := m } he
        (fun on hon => hrelay ⟨on, hon⟩)
      rw [← hkept] at hexec hs'
      refine ⟨_, hs'.trans hexec, rfl, fun hstatus hrdreg hclrst _ => hv ?_ fun hc => hrdreg (hc ▸ hp)⟩
      rintro (rfl | ⟨x, rfl⟩)
      · exact absurd hp hstatus
      · exact absurd hp (hclrst x)

end Sys2Proof.Proofs.Noninterference

/-! Runs of the transmit machine and of the relay sequencer (41_framer.md section 4, 43_relay.md section 5): bits and
blink phases are slots of equal length that a counter times. -/

namespace Sys2Proof.Proofs.TimedRuns

open Sys2Proof Sys2Proof.Machine
open Sys2Proof.Proofs.BitTiming Sys2Proof.Proofs.Framer Sys2Proof.Proofs.RelaySequencer Sys2Proof.Proofs.Encoding
open Sys2Proof.Proofs.Steps Sys2Proof.Proofs.FramerSteps Sys2Proof.Proofs.Invariants

-- ---------------------------------------------------------------- a counter that times slots of `d` steps

/-- Step `j` with `c` steps left of slot `m`: the next step is in the same slot, begins the next one, or is past the last
of `slots` slots. -/
theorem slot_step {j c m d slots : Nat} (hc : 1 ≤ c) (hd : c ≤ d) (hm : m < slots) (h : j + c = (m + 1) * d) :
    (1 < c ∧ j + 1 < slots * d ∧ j + 1 + (c - 1) = (m + 1) * d) ∨
    (c = 1 ∧ m + 1 < slots ∧ j + 1 < slots * d ∧ j + 1 + d = (m + 1 + 1) * d) ∨
    (c = 1 ∧ m + 1 = slots ∧ j + 1 = slots * d) := by
  have hle : (m + 1) * d ≤ slots * d := Nat.mul_le_mul_right d hm
  have hnext : (m + 1 + 1) * d = (m + 1) * d + d := Nat.succ_mul (m + 1) d
  rcases Nat.lt_or_ge 1 c with hmore | hlast
  · exact .inl ⟨hmore, by omega, by omega⟩
  · have hone : c = 1 := by omega
    rcases Nat.lt_or_ge (m + 1) slots with hmid | hend
    · have hle' : (m + 1 + 1) * d ≤ slots * d := Nat.mul_le_mul_right d hmid
      exact .inr (.inl ⟨hone, hmid, by omega, by omega⟩)
    · have hslots : m + 1 = slots := by omega
      exact .inr (.inr ⟨hone, hslots, by rw [← hslots]; omega⟩)

theorem slot_eq_div {j c m d : Nat} (hc : 1 ≤ c) (hd : c ≤ d) (h : j + c = (m + 1) * d) : j / d = m := by
  have hsucc : (m + 1) * d = m * d + d := Nat.succ_mul m d
  exact Nat.div_eq_of_lt_le (by omega) (by omega)

/-- A counter above 1 counts down to a counter that is not yet at its event. -/
theorem ofNat_counts {len c : Nat} (hc : 1 < c) (hlt : c < 2 ^ len) :
    BitVec.ofNat len c ≠ 1 ∧ BitVec.ofNat len c - 1 = BitVec.ofNat len (c - 1) := by
  have hnat := ofNat_toNat_of_lt hlt
  have hpow : 1 < 2 ^ len := by omega
  have hone : (1 : BitVec len).toNat = 1 := Nat.mod_eq_of_lt hpow
  have hzero : BitVec.ofNat len c ≠ 0 := fun e => by
    have := congrArg BitVec.toNat e
    rw [hnat] at this
    simp at this
    omega
  refine ⟨fun e => ?_, BitVec.eq_of_toNat_eq ?_⟩
  · have := congrArg BitVec.toNat e
    rw [hnat] at this
    exact absurd (this.trans hone) (by omega)
  · rw [sub_one_toNat hzero, hnat, ofNat_toNat_of_lt (by omega)]

-- ---------------------------------------------------------------- each step of the transmit machine (R55 to R59)

section TxTick

variable (d : BitVec 16) {tx : Tx}

theorem txTick_of_idle (h : tx.state = .idle) : txTick d tx = tx := by simp [txTick, h]

theorem txTick_of_counting (hbusy : tx.state ≠ .idle) (hcnt : tx.cnt ≠ 1) :
    txTick d tx = { tx with cnt := tx.cnt - 1 } := by
  have hcnt' := mt (sub_one_eq_zero tx.cnt).1 hcnt
  unfold txTick
  cases hs : tx.state with
  | idle => exact absurd hs hbusy
  | sendStart | sendData | sendStop | sendBreak => simp only [if_neg hcnt']

theorem txTick_of_start_end (hs : tx.state = .sendStart) (hcnt : tx.cnt = 1) : txTick d tx = txFirstBit d tx := by
  simp only [txTick, hs, (sub_one_eq_zero tx.cnt).2 hcnt, if_true]

theorem txTick_of_data_end (hs : tx.state = .sendData) (hcnt : tx.cnt = 1) : txTick d tx = txNextBit d tx := by
  simp only [txTick, hs, (sub_one_eq_zero tx.cnt).2 hcnt, if_true]

theorem txTick_of_stop_end (hs : tx.state = .sendStop) (hcnt : tx.cnt = 1) :
    txTick d tx = { tx with cnt := 0, state := .idle, bit := 0 } := by
  simp only [txTick, hs, (sub_one_eq_zero tx.cnt).2 hcnt, if_true]

theorem txTick_of_break_end (hs : tx.state = .sendBreak) (hcnt : tx.cnt = 1) :
    txTick d tx = { tx with cnt := 0, state := .idle, lineOut := true } := by
  simp only [txTick, hs, (sub_one_eq_zero tx.cnt).2 hcnt, if_true]

theorem txNextBit_of_more (h : tx.bit.toNat + 1 < dataBits tx.n) :
    txNextBit d tx =
      { tx with bit := tx.bit + 1, lineOut := tx.shift.getLsbD (tx.bit.toNat + 1), cnt := bitTime d } := if_pos h

theorem txNextBit_of_last (h : dataBits tx.n ≤ tx.bit.toNat + 1) :
    txNextBit d tx = { tx with state := .sendStop, lineOut := true, cnt := bitTime d } := if_neg (Nat.not_lt.2 h)

end TxTick

-- ---------------------------------------------------------------- quiet steps

section QuietSteps

variable {s t : State} {ops : List (BitVec 4)} (h : step s = .next t) (hquiet : quietFor ops s.nextInput)
include h hquiet

theorem step_div_of_quiet (h5 : 5 ∈ ops) : t.div = s.div := by
  obtain hd | ⟨v, hp, -⟩ := step_div h hquiet.1
  · exact hd
  · exact absurd h5 (not_mem_of_quietFor hquiet hp)

/-- The transmit machine takes its own step when each of the three commands that write it is excluded, or meets a state
in which it changes nothing. -/
theorem step_tx_of_quiet (h1 : 1 ∈ ops ∨ (txTick s.div s.tx).state ≠ .idle)
    (h7 : 7 ∈ ops ∨ (txTick s.div s.tx).state = .sendBreak)
    (h5 : 5 ∈ ops ∨ (txTick s.div s.tx).state = .idle ∨ (txTick s.div s.tx).state = .sendBreak) :
    t.tx = txTick s.div s.tx := by
  obtain ht | ⟨b, hp, hidle, -⟩ | ⟨hp, hfree, -⟩ | ⟨v, hp, ht⟩ := step_tx h hquiet.1
  · exact ht
  · rcases h1 with h1 | h1
    · exact absurd h1 (not_mem_of_quietFor hquiet hp)
    · exact absurd hidle h1
  · rcases h7 with h7 | h7
    · exact absurd h7 (not_mem_of_quietFor hquiet hp)
    · exact absurd h7 hfree
  · rcases h5 with h5 | h5 | h5
    · exact absurd h5 (not_mem_of_quietFor hquiet hp)
    · rw [ht, restartTx, h5]
    · rw [ht, restartTx, h5]

end QuietSteps

-- ---------------------------------------------------------------- a frame on the line (R56 to R58)

/-- The level of bit `m` of a frame: the start bit, the data bits least significant first, the stop bit. -/
def frameBit (w : DataWidth) (v : Byte) (stop : Bool) (m : Nat) : Bool :=
  if m = 0 then false
  else if m ≤ dataBits w then v.getLsbD (m - 1)
  else if m = dataBits w + 1 then stop
  else true

theorem frameLevel_eq (d : BitVec 16) (w : DataWidth) (v : Byte) (stop : Bool) (j : Nat) :
    frameLevel d w v stop j = frameBit w v stop (j / d.toNat) := rfl

/-- The transmit machine in bit `m` of the frame of `v`, `c` steps of the bit left. -/
def frameTx (w : DataWidth) (v : Byte) (m c : Nat) : Tx where
  state   := if m = 0 then .sendStart else if m ≤ dataBits w then .sendData else .sendStop
  cnt     := BitVec.ofNat 17 c
  bit     := BitVec.ofNat 3 (min m (dataBits w) - 1)
  shift   := v
  n       := w
  lineOut := frameBit w v true m

theorem ofNat_toNat_eq_bitTime (d : BitVec 16) : BitVec.ofNat 17 d.toNat = bitTime d :=
  BitVec.eq_of_toNat_eq (by rw [bitTime_toNat, ofNat_toNat_of_lt (by have := d.isLt; omega)])

section FrameTx

variable (d : BitVec 16) (w : DataWidth) (v : Byte)

theorem frameTx_state_ne_idle (m c : Nat) : (frameTx w v m c).state ≠ .idle := by
  simp only [frameTx]
  split <;> [skip; split] <;> decide

theorem frameTx_state_ne_sendBreak (m c : Nat) : (frameTx w v m c).state ≠ .sendBreak := by
  simp only [frameTx]
  split <;> [skip; split] <;> decide

theorem frameTx_start (c : Nat) :
    frameTx w v 0 c = { state := .sendStart, cnt := BitVec.ofNat 17 c, bit := 0, shift := v, n := w, lineOut := false } := by
  simp [frameTx, frameBit]

/-- Bit `i + 1` of the frame is data bit `i`. -/
theorem frameTx_data {i : Nat} (hi : i < dataBits w) (c : Nat) :
    frameTx w v (i + 1) c =
      { state := .sendData, cnt := BitVec.ofNat 17 c, bit := BitVec.ofNat 3 i, shift := v, n := w,
        lineOut := v.getLsbD i } := by
  simp [frameTx, frameBit, Nat.succ_le_of_lt hi]

theorem frameTx_stop (c : Nat) :
    frameTx w v (dataBits w + 1) c =
      { state := .sendStop, cnt := BitVec.ofNat 17 c, bit := BitVec.ofNat 3 (dataBits w - 1), shift := v, n := w,
        lineOut := true } := by
  simp [frameTx, frameBit]

theorem txTick_frameTx_counting {m c : Nat} (hc : 1 < c) (hlt : c < 2 ^ 17) :
    txTick d (frameTx w v m c) = frameTx w v m (c - 1) := by
  obtain ⟨hone, hsub⟩ := ofNat_counts hc hlt
  rw [txTick_of_counting d (frameTx_state_ne_idle w v m c) hone]
  simp only [frameTx, hsub]

/-- The end of a bit before the stop bit begins the next bit. -/
theorem txTick_frameTx_next {m : Nat} (hm : m ≤ dataBits w) :
    txTick d (frameTx w v m 1) = frameTx w v (m + 1) d.toNat := by
  have hwidth := dataBits_le w
  cases m with
  | zero =>
    rw [frameTx_start, txTick_of_start_end d rfl rfl, frameTx_data w v (by omega), ofNat_toNat_eq_bitTime]
    rfl
  | succ i =>
    have hbit : (BitVec.ofNat 3 i).toNat = i := ofNat_toNat_of_lt (by omega)
    rw [frameTx_data w v hm, txTick_of_data_end d rfl rfl]
    rcases Nat.lt_or_ge (i + 1) (dataBits w) with hmore | hlast
    · have hnext : BitVec.ofNat 3 i + 1 = BitVec.ofNat 3 (i + 1) := (BitVec.ofNat_add i 1).symm
      rw [txNextBit_of_more d (by rw [hbit]; exact hmore), frameTx_data w v hmore, ofNat_toNat_eq_bitTime, hnext, hbit]
    · have hend : i + 1 = dataBits w := by omega
      have hi : i = dataBits w - 1 := by omega
      rw [txNextBit_of_last d (by rw [hbit]; exact hlast), hend, frameTx_stop, ofNat_toNat_eq_bitTime, hi]

theorem txTick_frameTx_end :
    (txTick d (frameTx w v (dataBits w + 1) 1)).state = .idle ∧
    (txTick d (frameTx w v (dataBits w + 1) 1)).lineOut = true := by
  rw [frameTx_stop, txTick_of_stop_end d rfl rfl]
  exact ⟨rfl, rfl⟩

/-- `j` steps into the frame of `v`: in some bit of it, some steps of the bit left. -/
def sending (j : Nat) (tx : Tx) : Prop :=
  ∃ m c, m < dataBits w + 2 ∧ 1 ≤ c ∧ c ≤ d.toNat ∧ j + c = (m + 1) * d.toNat ∧ tx = frameTx w v m c

variable {d w v} {j : Nat} {tx : Tx}

theorem sending_level (h : sending d w v j tx) : tx.state ≠ .idle ∧ tx.lineOut = frameLevel d w v true j := by
  obtain ⟨m, c, -, hc, hd, hj, rfl⟩ := h
  rw [frameLevel_eq, slot_eq_div hc hd hj]
  exact ⟨frameTx_state_ne_idle w v m c, rfl⟩

/-- A step of a frame goes on with the frame, or ends it in its last step. -/
theorem txTick_sending (hne : d ≠ 0) (h : sending d w v j tx) :
    (j + 1 < frameSteps d w ∧ sending d w v (j + 1) (txTick d tx)) ∨
    (j + 1 = frameSteps d w ∧ (txTick d tx).state = .idle ∧ (txTick d tx).lineOut = true) := by
  obtain ⟨m, c, hm, hc, hd, hj, rfl⟩ := h
  have hlt := d.isLt
  have hpos : 0 < d.toNat := BitVec.toNat_pos_of_ne_zero hne
  obtain ⟨hmore, hin, hj'⟩ | ⟨rfl, hnext, hin, hj'⟩ | ⟨rfl, hlast, hend⟩ := slot_step hc hd hm hj
  · exact .inl ⟨hin, m, c - 1, hm, by omega, by omega, hj', txTick_frameTx_counting d w v hmore (by omega)⟩
  · exact .inl ⟨hin, m + 1, d.toNat, hnext, hpos, Nat.le_refl _, hj', txTick_frameTx_next d w v (by omega)⟩
  · have hm' : m = dataBits w + 1 := by omega
    subst hm'
    exact .inr ⟨hend, txTick_frameTx_end d w v⟩

theorem sending_running (h : sending d w v j tx) : tx.state ≠ .idle ∧ tx.state ≠ .sendBreak := by
  obtain ⟨m, c, -, -, -, -, rfl⟩ := h
  exact ⟨frameTx_state_ne_idle w v m c, frameTx_state_ne_sendBreak w v m c⟩

end FrameTx

/-- The state `j` steps into a run that sends a frame. -/
def frameRun (ops : List (BitVec 4)) (d : BitVec 16) (w : DataWidth) (v : Byte) (j : Nat) (u : State) : Prop :=
  u.div = d ∧ (j < frameSteps d w → sending d w v j u.tx) ∧
  (j = frameSteps d w → 1 ∈ ops → u.tx.state = .idle ∧ u.tx.lineOut = true)

theorem frameRun_step {ops : List (BitVec 4)} {d : BitVec 16} {w : DataWidth} {v : Byte} {j : Nat} {u u' : State}
    (h5 : 5 ∈ ops) (h7 : 7 ∈ ops) (hne : d ≠ 0) (hj : j < frameSteps d w) (hu : frameRun ops d w v j u)
    (hquiet : quietFor ops u.nextInput) (h : step u = .next u') : frameRun ops d w v (j + 1) u' := by
  obtain ⟨rfl, hsending, -⟩ := hu
  refine ⟨step_div_of_quiet h hquiet h5, fun hj' => ?_, fun hj' h1 => ?_⟩
  · obtain ⟨-, hnext⟩ | ⟨hend, -⟩ := txTick_sending hne (hsending hj)
    · rwa [step_tx_of_quiet h hquiet (.inr (sending_running hnext).1) (.inl h7) (.inl h5)]
    · omega
  · obtain ⟨hin, -⟩ | ⟨-, hidle⟩ := txTick_sending hne (hsending hj)
    · omega
    · rwa [step_tx_of_quiet h hquiet (.inl h1) (.inl h7) (.inl h5)]

/-- The state a TXPUT leaves is at the first step of its frame. -/
theorem frameRun_zero {s s₁ : State} {b : Byte} (ops : List (BitVec 4)) (hne : s.div ≠ 0) (hidle : s.tx.state = .idle)
    (h : exec (.txput b) s = .next s₁) : frameRun ops s.div s.txWCfg b 0 s₁ := by
  have hpos : 0 < s.div.toNat := BitVec.toNat_pos_of_ne_zero hne
  cases next_inj ((exec_txput_of_idle b s hidle).symm.trans h)
  refine ⟨rfl, fun _ => ⟨0, s.div.toNat, by omega, hpos, Nat.le_refl _, by omega, ?_⟩, fun hzero => ?_⟩
  · rw [frameTx_start, ofNat_toNat_eq_bitTime]
    rfl
  · have hframe : 0 < frameSteps s.div s.txWCfg := Nat.mul_pos (by omega) hpos
    omega

/-- A run after an accepted TXPUT, quiet for SETDIV and SENDBRK. -/
theorem runsTo_frame {s s₁ : State} {b : Byte} {k : Nat} {ops : List (BitVec 4)} (h5 : 5 ∈ ops) (h7 : 7 ∈ ops)
    (hwf : s.par.wf = true) (hne : s.div ≠ 0) (hidle : s.tx.state = .idle) (h : exec (.txput b) s = .next s₁)
    (hk : k ≤ frameSteps s.div s.txWCfg) (hquiet : s₁.quietRun ops k) :
    ∃ t, runsTo k s₁ t ∧ frameRun ops s.div s.txWCfg b k t := by
  obtain ⟨hpar, -⟩ := exec_environment _ _ _ h
  refine run_induction (by rw [hpar, hwf]) hquiet (frameRun_zero ops hne hidle h) ?_
  intro j u u' hj hu _ _ hq hstep
  exact frameRun_step h5 h7 hne (by omega) hu hq hstep

/-- Settles O33: each edge of the transmit machine, and the induction along the frame. -/
theorem transmittedFrameWaveform : Obligations.TransmittedFrameWaveform := by
  refine ⟨fun s => ?_, fun s s₁ b k hwf hne hidle h hk hquiet => ?_⟩
  · rw [enginePhase_tx]
    refine ⟨txTick_of_idle s.div, txTick_of_counting s.div, txTick_of_start_end s.div, fun hs hcnt hmore => ?_,
      fun hs hcnt hlast => ?_, txTick_of_stop_end s.div, txTick_of_break_end s.div⟩
    · rw [txTick_of_data_end s.div hs hcnt, txNextBit_of_more s.div hmore]; rfl
    · rw [txTick_of_data_end s.div hs hcnt, txNextBit_of_last s.div hlast]; rfl
  · by_cases hq : s₁.quietRun [1] k
    · obtain ⟨t, ht, -, hsending, hend⟩ :=
        runsTo_frame (ops := [5, 7] ++ [1]) (by simp) (by simp) hwf hne hidle h hk (quietRun_append hquiet hq)
      exact ⟨t, ht, fun hlt => sending_level (hsending hlt), fun heq _ => hend heq (by simp)⟩
    · obtain ⟨t, ht, -, hsending, -⟩ := runsTo_frame (by simp) (by simp) hwf hne hidle h hk hquiet
      exact ⟨t, ht, fun hlt => sending_level (hsending hlt), fun _ hno => absurd hno hq⟩

-- ---------------------------------------------------------------- a break (R59, R62)

/-- The state `j` steps into a break of `ticks` steps. -/
def breakRun (ops : List (BitVec 4)) (ticks j : Nat) (u : State) : Prop :=
  (j < ticks → u.tx.state = .sendBreak ∧ u.tx.cnt.toNat = ticks - j ∧ u.tx.lineOut = false) ∧
  (j = ticks → 1 ∈ ops → 7 ∈ ops → u.tx.state = .idle ∧ u.tx.lineOut = true)

theorem breakRun_low {ticks j : Nat} {u : State}
    (h : j < ticks → u.tx.state = .sendBreak ∧ u.tx.cnt.toNat = ticks - j ∧ u.tx.lineOut = false) (hj : j < ticks) :
    u.tx.state = .sendBreak ∧ u.tx.lineOut = false := by
  obtain ⟨hstate, -, hline⟩ := h hj
  exact ⟨hstate, hline⟩

theorem breakRun_step {ops : List (BitVec 4)} {ticks j : Nat} {u u' : State} (hj : j < ticks)
    (hu : breakRun ops ticks j u) (hquiet : quietFor ops u.nextInput) (h : step u = .next u') :
    breakRun ops ticks (j + 1) u' := by
  obtain ⟨hs, hcnt, hline⟩ := hu.1 hj
  refine ⟨fun hj' => ?_, fun hj' h1 h7 => ?_⟩
  · have hone : u.tx.cnt ≠ 1 := fun e => by rw [e] at hcnt; simp at hcnt; omega
    have hzero : u.tx.cnt ≠ 0 := fun e => by rw [e] at hcnt; simp at hcnt; omega
    have htick := txTick_of_counting u.div (tx := u.tx) (by simp [hs]) hone
    have ht : u'.tx = txTick u.div u.tx :=
      step_tx_of_quiet h hquiet (.inr (by simp [htick, hs])) (.inr (by simp [htick, hs])) (.inr (.inr (by simp [htick, hs])))
    rw [ht, htick]
    exact ⟨hs, by rw [sub_one_toNat hzero, hcnt]; omega, hline⟩
  · have hone : u.tx.cnt = 1 := BitVec.eq_of_toNat_eq (by rw [hcnt]; simp; omega)
    have htick := txTick_of_break_end u.div hs hone
    have ht : u'.tx = txTick u.div u.tx :=
      step_tx_of_quiet h hquiet (.inl h1) (.inl h7) (.inr (.inl (by simp [htick])))
    rw [ht, htick]
    exact ⟨rfl, rfl⟩

/-- A run after an accepted SENDBRK. -/
theorem runsTo_break {s s₁ : State} {k : Nat} {ops : List (BitVec 4)} (hwf : s.par.wf = true)
    (hfree : s.tx.state ≠ .sendBreak) (h : exec .sendbrk s = .next s₁) (hk : k ≤ s.par.breakTicks.toNat)
    (hquiet : s₁.quietRun ops k) : ∃ t, runsTo k s₁ t ∧ breakRun ops s.par.breakTicks.toNat k t := by
  obtain ⟨-, -, hticks, -⟩ := (params_wf_iff s.par).1 hwf
  have hpos : 0 < s.par.breakTicks.toNat := BitVec.toNat_pos_of_ne_zero hticks
  obtain ⟨hpar, -⟩ := exec_environment _ _ _ h
  refine run_induction (by rw [hpar, hwf]) hquiet ?_ fun j u u' hj hu _ _ hq hstep =>
    breakRun_step (by omega) hu hq hstep
  cases next_inj ((exec_sendbrk_of_free hfree).symm.trans h)
  exact ⟨fun _ => ⟨rfl, rfl, rfl⟩, fun hzero => absurd hzero hpos.ne⟩

/-- Settles O34: no command writes the transmit machine in a break. -/
theorem breakLastsBreakTicks : Obligations.BreakLastsBreakTicks := by
  intro s s₁ k hwf hfree h hk hquiet
  by_cases hq : s₁.quietRun [1, 7] k
  · obtain ⟨t, ht, hlow, hend⟩ := runsTo_break hwf hfree h hk hq
    exact ⟨t, ht, breakRun_low hlow, fun heq _ => hend heq (by simp) (by simp)⟩
  · obtain ⟨t, ht, hlow, -⟩ := runsTo_break hwf hfree h hk hquiet
    exact ⟨t, ht, breakRun_low hlow, fun _ hno => absurd hno hq⟩

end Sys2Proof.Proofs.TimedRuns

/-! Runs of the relay sequencer (43_relay.md section 5): a power-on and a power-off take their number of blink phases. -/

namespace Sys2Proof.Proofs.RelayRuns

open Sys2Proof Sys2Proof.Machine
open Sys2Proof.Proofs.BitTiming Sys2Proof.Proofs.RelaySequencer Sys2Proof.Proofs.Encoding
open Sys2Proof.Proofs.Steps Sys2Proof.Proofs.Invariants Sys2Proof.Proofs.TimedRuns

/-- The sequencer in blink phase `m` of the sequence `r` runs, `c` steps of the phase left. -/
def phaseRelay (r : Relay) (m c : Nat) : Relay :=
  { r with phase := BitVec.ofNat 4 m, cnt := BitVec.ofNat 16 c, ledA := ledsOf m, ledB := ledsOf m }

/-- What the end of the sequence `r` runs leaves (R77, R78). -/
def endRelay (r : Relay) : Relay :=
  if r.state = .poweringOn then
    { r with acRelay := true, state := .enabled, phase := 0, cnt := 0, ledA := false, ledB := false }
  else { r with loopRelay := false, state := .off, phase := 0, cnt := 0, ledA := false, ledB := false }

theorem phaseRelay_phase (r : Relay) {m : Nat} (c : Nat) (hm : m < 16) : (phaseRelay r m c).phase.toNat = m :=
  ofNat_toNat_of_lt hm

section Phases

variable {p : Params} {r : Relay} (hrun : r.state = .poweringOn ∨ r.state = .poweringOff)
include hrun

theorem relayTick_phaseRelay_counting {m c : Nat} (hc : 1 < c) (hlt : c < 2 ^ 16) :
    relayTick p (phaseRelay r m c) = phaseRelay r m (c - 1) := by
  obtain ⟨hone, hsub⟩ := ofNat_counts hc hlt
  rw [relayTick_of_counting p (r := phaseRelay r m c) hrun hone]
  simp only [phaseRelay, hsub]

theorem relayTick_phaseRelay_next {m : Nat} (hm : m + 1 < 2 * iterations p r) (h16 : 2 * iterations p r ≤ 16) :
    relayTick p (phaseRelay r m 1) = phaseRelay r (m + 1) p.phaseTicks.toNat := by
  have hphase := phaseRelay_phase r (m := m) 1 (by omega)
  have hnext : BitVec.ofNat 4 m + 1 = BitVec.ofNat 4 (m + 1) := (BitVec.ofNat_add m 1).symm
  have hticks : BitVec.ofNat 16 p.phaseTicks.toNat = p.phaseTicks := by simp
  rw [relayTick_of_phase_end p (r := phaseRelay r m 1) hrun rfl (by rw [hphase]; exact hm), nextPhase, hphase]
  simp only [phaseRelay, hnext, hticks]

theorem relayTick_phaseRelay_end {m : Nat} (hm : m + 1 = 2 * iterations p r) (h16 : 2 * iterations p r ≤ 16) :
    relayTick p (phaseRelay r m 1) = endRelay r := by
  have hphase := phaseRelay_phase r (m := m) 1 (by omega)
  rcases hrun with hs | hs
  · have hiters : iterations p r = p.onIters := if_pos hs
    rw [relayTick_of_on_end p (r := phaseRelay r m 1) hs (by omega) rfl, endRelay, if_pos hs]
    rfl
  · have hiters : iterations p r = p.offIters := if_neg (by simp [hs])
    rw [relayTick_of_off_end p (r := phaseRelay r m 1) hs (by omega) rfl, endRelay, if_neg (by simp [hs])]
    rfl

end Phases

/-- `j` steps into the sequence `r` runs: in some blink phase, some steps of the phase left. -/
def blinkingAt (p : Params) (r : Relay) (j : Nat) (x : Relay) : Prop :=
  ∃ m c, m < 2 * iterations p r ∧ 1 ≤ c ∧ c ≤ p.phaseTicks.toNat ∧ j + c = (m + 1) * p.phaseTicks.toNat ∧
    x = phaseRelay r m c

/-- How many steps the sequence `r` runs takes. -/
def sequenceSteps (p : Params) (r : Relay) : Nat := 2 * iterations p r * p.phaseTicks.toNat

section Sequence

variable {p : Params} (hwf : p.wf = true) {r : Relay} (hrun : r.state = .poweringOn ∨ r.state = .poweringOff) {j : Nat}
include hwf

theorem phaseTicks_pos : 0 < p.phaseTicks.toNat := by
  obtain ⟨-, -, -, hticks, -⟩ := (params_wf_iff p).1 hwf
  exact BitVec.toNat_pos_of_ne_zero hticks

theorem iterations_range : 0 < 2 * iterations p r ∧ 2 * iterations p r ≤ 16 := by
  obtain ⟨-, -, -, -, hon1, hon8, hoff1, hoff8, -⟩ := (params_wf_iff p).1 hwf
  unfold iterations
  split <;> omega

theorem blinkingAt_zero : blinkingAt p r 0 (phaseRelay r 0 p.phaseTicks.toNat) :=
  ⟨0, p.phaseTicks.toNat, (iterations_range hwf).1, phaseTicks_pos hwf, Nat.le_refl _, by omega, rfl⟩

include hrun

/-- A step of a sequence goes on with it, or ends it in its last step. -/
theorem relayTick_blinkingAt {x : Relay} (h : blinkingAt p r j x) :
    (j + 1 < sequenceSteps p r ∧ blinkingAt p r (j + 1) (relayTick p x)) ∨
    (j + 1 = sequenceSteps p r ∧ relayTick p x = endRelay r) := by
  obtain ⟨m, c, hm, hc, hd, hj, rfl⟩ := h
  have hlt := p.phaseTicks.isLt
  have h16 := (iterations_range (r := r) hwf).2
  obtain ⟨hmore, hin, hj'⟩ | ⟨rfl, hnext, hin, hj'⟩ | ⟨rfl, hlast, hend⟩ := slot_step hc hd hm hj
  · exact .inl ⟨hin, m, c - 1, hm, by omega, by omega, hj', relayTick_phaseRelay_counting hrun hmore (by omega)⟩
  · exact .inl ⟨hin, m + 1, _, hnext, phaseTicks_pos hwf, Nat.le_refl _, hj', relayTick_phaseRelay_next hrun hnext h16⟩
  · exact .inr ⟨hend, relayTick_phaseRelay_end hrun hlast h16⟩

end Sequence

theorem blinkingAt_fields {p : Params} {r : Relay} {j : Nat} {x : Relay} (hwf : p.wf = true) (h : blinkingAt p r j x) :
    x.state = r.state ∧ x.loopRelay = r.loopRelay ∧ x.acRelay = r.acRelay ∧
    x.phase.toNat = j / p.phaseTicks.toNat ∧ x.ledA = decide (j / p.phaseTicks.toNat % 2 = 0) ∧
    x.ledB = decide (j / p.phaseTicks.toNat % 2 = 0) := by
  obtain ⟨m, c, hm, hc, hd, hj, rfl⟩ := h
  have h16 := (iterations_range (r := r) hwf).2
  rw [slot_eq_div hc hd hj]
  exact ⟨rfl, rfl, rfl, ofNat_toNat_of_lt (by omega), rfl, rfl⟩

/-- The state `j` steps into a run of the sequence `r`: it runs, or has ended, and then a RELAY of the last step has begun
from its end. -/
def sequenceRun (ops : List (BitVec 4)) (r : Relay) (j : Nat) (u : State) : Prop :=
  (j < sequenceSteps u.par r → blinkingAt u.par r j u.relay) ∧
  (j = sequenceSteps u.par r →
    u.relay = endRelay r ∨ (15 ∉ ops ∧ ∃ on, u.relay = relayStart u.par on (endRelay r)))

theorem sequenceRun_step {ops : List (BitVec 4)} {r : Relay} {j : Nat} {u u' : State}
    (hrun : r.state = .poweringOn ∨ r.state = .poweringOff) (hj : j < sequenceSteps u.par r)
    (hu : sequenceRun ops r j u) (hquiet : quietFor ops u.nextInput) (h : step u = .next u') :
    sequenceRun ops r (j + 1) u' := by
  unfold sequenceRun
  rw [step_par u u' h]
  obtain ⟨hin, hnext⟩ | ⟨hend, hnext⟩ := relayTick_blinkingAt (wf_of_step h) hrun (hu.1 hj)
  · refine ⟨fun _ => ?_, fun hj' => absurd hj' (by omega)⟩
    obtain ⟨hstate, -⟩ := blinkingAt_fields (wf_of_step h) hnext
    obtain hr | ⟨on, -, hon, hoff, -⟩ := step_relay h hquiet.1
    · rwa [hr]
    · rw [hstate] at hon hoff
      exact absurd hrun (not_or.2 ⟨hon, hoff⟩)
  · refine ⟨fun hj' => absurd hj' (by omega), fun _ => ?_⟩
    obtain hr | ⟨on, hp, -, -, hr⟩ := step_relay h hquiet.1 <;> rw [hnext] at hr
    · exact .inl hr
    · exact .inr ⟨not_mem_of_quietFor hquiet hp, on, hr⟩

/-- A run after a RELAY that began the sequence `r`. -/
theorem runsTo_sequence {s₁ : State} {r : Relay} {k : Nat} {ops : List (BitVec 4)} (hwf : s₁.par.wf = true)
    (hrun : r.state = .poweringOn ∨ r.state = .poweringOff)
    (hstart : s₁.relay = phaseRelay r 0 s₁.par.phaseTicks.toNat) (hk : k ≤ sequenceSteps s₁.par r)
    (hquiet : s₁.quietRun ops k) : ∃ t, runsTo k s₁ t ∧ t.par = s₁.par ∧ sequenceRun ops r k t := by
  have hzero : sequenceRun ops r 0 s₁ := by
    refine ⟨fun _ => hstart ▸ blinkingAt_zero hwf, fun hzero => absurd hzero.symm ?_⟩
    exact Nat.mul_ne_zero (iterations_range hwf).1.ne' (phaseTicks_pos hwf).ne'
  refine run_induction (P := fun j u => u.par = s₁.par ∧ sequenceRun ops r j u) hwf hquiet ⟨rfl, hzero⟩ ?_
  rintro j u u' hj ⟨hpar, hu⟩ - - hq hstep
  exact ⟨(step_par u u' hstep).trans hpar, sequenceRun_step hrun (by rw [hpar]; omega) hu hq hstep⟩

/-- A run quiet for RELAY, or quiet for nothing: at its end the sequence has ended, or a RELAY came. -/
theorem runsTo_sequence_of_quiet {p : Params} {s₁ : State} {r : Relay} {k : Nat} (hpar : s₁.par = p)
    (hwf : p.wf = true) (hrun : r.state = .poweringOn ∨ r.state = .poweringOff)
    (hstart : s₁.relay = phaseRelay r 0 p.phaseTicks.toNat) (hk : k ≤ sequenceSteps p r) (hquiet : s₁.quietRun [] k) :
    ∃ t, runsTo k s₁ t ∧ (k < sequenceSteps p r → blinkingAt p r k t.relay) ∧
      (k = sequenceSteps p r → t.relay = endRelay r ∨ ∃ on, t.relay = relayStart p on (endRelay r)) ∧
      (k = sequenceSteps p r → s₁.quietRun [15] k → t.relay = endRelay r) := by
  subst hpar
  by_cases hq : s₁.quietRun [15] k
  · obtain ⟨t, ht, hpar, hblink, hend⟩ := runsTo_sequence hwf hrun hstart hk hq
    rw [hpar] at hblink hend
    have hquietEnd : k = sequenceSteps s₁.par r → t.relay = endRelay r := fun heq =>
      (hend heq).elim id fun h => absurd (by simp) h.1
    exact ⟨t, ht, hblink, fun heq => .inl (hquietEnd heq), fun heq _ => hquietEnd heq⟩
  · obtain ⟨t, ht, hpar, hblink, hend⟩ := runsTo_sequence hwf hrun hstart hk hquiet
    rw [hpar] at hblink hend
    exact ⟨t, ht, hblink, fun heq => (hend heq).imp id And.right, fun _ hno => absurd hno hq⟩

/-- A RELAY at a power-on's end leaves the loop relay on. -/
theorem relayStart_loopRelay (p : Params) (on : Bool) {r : Relay} (h : r.state = .enabled) :
    (relayStart p on r).loopRelay = r.loopRelay := by
  cases on
  · rw [relayStart_off_of_enabled p h]
  · rw [relayStart_on_of_enabled p h]

/-- A RELAY at a power-off's end leaves the AC relay off. -/
theorem relayStart_acRelay (p : Params) (on : Bool) {r : Relay} (h : r.state = .off) :
    (relayStart p on r).acRelay = r.acRelay := by
  cases on
  · rw [relayStart_off_of_off p h]
  · rw [relayStart_on_of_off p h]

/-- The power-on that a RELAY on begins from `r`. -/
def poweringOn (r : Relay) : Relay := { r with loopRelay := true, state := .poweringOn }

/-- The power-off that a RELAY off begins from `r`. -/
def poweringOff (r : Relay) : Relay := { r with acRelay := false, state := .poweringOff }

/-- Settles O50. -/
theorem powerOnTakesItsTime : Obligations.PowerOnTakesItsTime := by
  intro s s₁ k hwf hoff hlegal h hk hquiet
  obtain ⟨-, -, hac⟩ := hlegal.1 hoff
  obtain ⟨hpar, -⟩ := exec_environment _ _ _ h
  have hstart : s₁.relay = phaseRelay (poweringOn s.relay) 0 s.par.phaseTicks.toNat := by
    rw [← next_inj ((exec_relay_of_rest true (.inl hoff)).symm.trans h), respond_relay,
      relayStart_on_of_off s.par hoff, phaseRelay, BitVec.ofNat_toNat, BitVec.setWidth_eq]
    rfl
  obtain ⟨t, ht, hblink, hend, hquietEnd⟩ :=
    runsTo_sequence_of_quiet hpar hwf (.inl rfl) hstart hk hquiet
  refine ⟨t, ht, ?_, fun hlt => ?_, fun heq hno => ?_⟩
  · rcases Nat.lt_or_eq_of_le hk with hlt | heq
    · obtain ⟨-, hloop, -⟩ := blinkingAt_fields hwf (hblink hlt)
      exact hloop
    · rcases hend heq with hr | ⟨on, hr⟩
      · rw [hr]; rfl
      · rw [hr, relayStart_loopRelay _ _ rfl]; rfl
  · obtain ⟨hs, -, hac', hphase, hA, hB⟩ := blinkingAt_fields hwf (hblink hlt)
    exact ⟨hs, hac'.trans hac, hphase, hA, hB⟩
  · rw [hquietEnd heq hno]
    exact ⟨rfl, rfl, rfl, rfl⟩

/-- Settles O51. -/
theorem powerOffTakesItsTime : Obligations.PowerOffTakesItsTime := by
  intro s s₁ k hwf henabled hlegal h hk hquiet
  obtain ⟨-, hlegalOn, -⟩ := hlegal
  obtain ⟨-, hloop, -⟩ := hlegalOn henabled
  obtain ⟨hpar, -⟩ := exec_environment _ _ _ h
  have hstart : s₁.relay = phaseRelay (poweringOff s.relay) 0 s.par.phaseTicks.toNat := by
    rw [← next_inj ((exec_relay_of_rest false (.inr henabled)).symm.trans h), respond_relay,
      relayStart_off_of_enabled s.par henabled, phaseRelay, BitVec.ofNat_toNat, BitVec.setWidth_eq]
    rfl
  obtain ⟨t, ht, hblink, hend, hquietEnd⟩ :=
    runsTo_sequence_of_quiet hpar hwf (.inr rfl) hstart hk hquiet
  refine ⟨t, ht, ?_, fun hlt => ?_, fun heq hno => ?_⟩
  · rcases Nat.lt_or_eq_of_le hk with hlt | heq
    · obtain ⟨-, -, hac, -⟩ := blinkingAt_fields hwf (hblink hlt)
      exact hac
    · rcases hend heq with hr | ⟨on, hr⟩
      · rw [hr]; rfl
      · rw [hr, relayStart_acRelay _ _ rfl]; rfl
  · obtain ⟨hs, hloop', -, hphase, hA, hB⟩ := blinkingAt_fields hwf (hblink hlt)
    exact ⟨hs, hloop'.trans hloop, hphase, hA, hB⟩
  · rw [hquietEnd heq hno]
    exact ⟨rfl, rfl, rfl, rfl⟩

end Sys2Proof.Proofs.RelayRuns

/-! Runs of the receive machine and the line condition (41_framer.md sections 1 and 2): a frame on the line is received,
the byte a transmitter sends among them, and a low line becomes a break after one frame. -/

namespace Sys2Proof.Proofs.Reception

open Sys2Proof Sys2Proof.Machine
open Sys2Proof.Proofs.BitTiming Sys2Proof.Proofs.Framer Sys2Proof.Proofs.Encoding
open Sys2Proof.Proofs.Steps Sys2Proof.Proofs.FramerSteps Sys2Proof.Proofs.Invariants Sys2Proof.Proofs.TimedRuns

-- ---------------------------------------------------------------- the bits sampled so far (R48)

/-- The low `n` bits of a byte, zero above. -/
def firstBits (v : Byte) (n : Nat) : Byte := (v.setWidth n).setWidth 8

theorem firstBits_getLsbD (v : Byte) (n i : Nat) (hi : i < 8) :
    (firstBits v n).getLsbD i = (decide (i < n) && v.getLsbD i) := by
  simp only [firstBits, BitVec.getLsbD_setWidth, hi, decide_true, Bool.true_and]

theorem firstBits_zero (v : Byte) : firstBits v 0 = 0 :=
  BitVec.eq_of_getLsbD_eq fun i hi => by simp [firstBits_getLsbD v 0 i hi]

/-- Sampling the next bit of a byte after its low `n` bits. -/
theorem setBit_firstBits (v : Byte) (n : Nat) : setBit (firstBits v n) n (v.getLsbD n) = firstBits v (n + 1) := by
  refine BitVec.eq_of_getLsbD_eq fun i hi => ?_
  rw [setBit_getLsbD _ _ _ _ hi, firstBits_getLsbD v n i hi, firstBits_getLsbD v (n + 1) i hi]
  rcases Nat.lt_trichotomy i n with h | rfl | h
  · simp [h, Nat.ne_of_lt h, Nat.lt_succ_of_lt h]
  · simp
  · simp [Nat.ne_of_gt h, Nat.not_lt.2 (Nat.le_of_lt h), Nat.not_lt.2 (Nat.succ_le_of_lt h)]

theorem lowBits_firstBits (w : DataWidth) (v : Byte) : lowBits w (firstBits v (dataBits w)) = lowBits w v := by
  refine BitVec.eq_of_getLsbD_eq fun i hi => ?_
  rw [lowBits_getLsbD _ _ _ hi, lowBits_getLsbD _ _ _ hi, firstBits_getLsbD _ _ _ hi, ← Bool.and_assoc, Bool.and_self]

-- ---------------------------------------------------------------- a frame being received (R47 to R49)

/-- The receive machine with `b` data bits of `v` sampled and `c` steps left to the next sample point; the holding
register is that of `rx`. -/
def frameRx (w : DataWidth) (v : Byte) (rx : Rx) (prev : Bool) (b c : Nat) : Rx where
  state := if b = 0 then .startDetected else if b = dataBits w then .stopCheck else .samplingBits
  cnt   := BitVec.ofNat 17 c
  bit   := BitVec.ofNat 4 b
  shift := firstBits v b
  n     := w
  prev  := prev
  data  := rx.data
  ready := rx.ready

section FrameRx

variable (d : BitVec 16) (w cfg : DataWidth) (v : Byte) (rx : Rx) (prev line : Bool)

theorem frameRx_state_ne_idle (b c : Nat) : (frameRx w v rx prev b c).state ≠ .idle := by
  simp only [frameRx]
  split <;> [skip; split] <;> decide

theorem frameRx_state_of_data {b : Nat} (hb : b < dataBits w) (c : Nat) :
    (frameRx w v rx prev b c).state = .startDetected ∨ (frameRx w v rx prev b c).state = .samplingBits := by
  simp only [frameRx, if_neg (Nat.ne_of_lt hb)]
  split <;> simp

theorem frameRx_state_of_stop (c : Nat) : (frameRx w v rx prev (dataBits w) c).state = .stopCheck := by
  have := (dataBits_le w).1
  simp only [frameRx, if_neg (show dataBits w ≠ 0 by omega), if_true]

theorem rxTick_frameRx_counting {b c : Nat} (hc : 1 < c) (hlt : c < 2 ^ 17) :
    rxTick d cfg line (frameRx w v rx prev b c) = frameRx w v rx prev b (c - 1) := by
  obtain ⟨hone, hsub⟩ := ofNat_counts hc hlt
  rw [rxTick_of_counting d cfg line (frameRx_state_ne_idle w v rx prev b c) hone]
  simp only [frameRx, hsub]

/-- A data sample point with the frame's bit on the line. -/
theorem rxTick_frameRx_sample {b : Nat} (hb : b < dataBits w) :
    rxTick d cfg (v.getLsbD b) (frameRx w v rx prev b 1) = frameRx w v rx prev (b + 1) d.toNat := by
  have hwidth := (dataBits_le w).2
  have hbit : (BitVec.ofNat 4 b).toNat = b := ofNat_toNat_of_lt (by omega)
  have hnext : BitVec.ofNat 4 b + 1 = BitVec.ofNat 4 (b + 1) := (BitVec.ofNat_add b 1).symm
  rw [rxTick_of_dataSample d cfg _ (frameRx_state_of_data w v rx prev hb 1) rfl]
  simp only [rxSample, frameRx, hbit, hnext, setBit_firstBits, ofNat_toNat_eq_bitTime, Nat.succ_ne_zero, if_false]

theorem rxTick_frameRx_stop :
    rxTick d cfg line (frameRx w v rx prev (dataBits w) 1) =
      rxStop line (frameRx w v rx prev (dataBits w) 1) :=
  rxTick_of_stopSample d cfg line (frameRx_state_of_stop w v rx prev 1) rfl

/-- `j` samples of the frame of `v` have been seen: some of its data bits are sampled, and the next sample point comes in
the step of its bit. -/
def receiving (j : Nat) (x : Rx) : Prop :=
  ∃ prev b c, b ≤ dataBits w ∧ 1 ≤ c ∧ c ≤ 98302 ∧ j + c = firstSample d + b * d.toNat + 1 ∧
    x = frameRx w v rx prev b c

end FrameRx

/-- A sample point is in the middle of its bit: the line is at the level of data bit `b`, or of the stop bit. -/
theorem frameLevel_of_samplePoint {d : BitVec 16} (hne : d ≠ 0) (w : DataWidth) (v : Byte) (stop : Bool) {j b : Nat}
    (h : j = firstSample d + b * d.toNat) : frameLevel d w v stop j = frameBit w v stop (b + 1) := by
  have hpos : 0 < d.toNat := BitVec.toNat_pos_of_ne_zero hne
  have h1 : (b + 1) * d.toNat = b * d.toNat + d.toNat := Nat.succ_mul b _
  have h2 : (b + 1 + 1) * d.toNat = (b + 1) * d.toNat + d.toNat := Nat.succ_mul (b + 1) _
  simp only [firstSample, halfBit] at h
  rw [frameLevel_eq, Nat.div_eq_of_lt_le (k := b + 1) (by omega) (by omega)]

/-- A step with the frame's level on the line goes on receiving the frame, until the step of its stop sample. -/
theorem rxTick_receiving {d : BitVec 16} (hne : d ≠ 0) {w : DataWidth} {v : Byte} {rx x : Rx} {j : Nat} (cfg : DataWidth)
    (stop : Bool) (h : receiving d w v rx j x) :
    (j < stopSample d w ∧
      receiving d w v rx (j + 1) { rxTick d cfg (frameLevel d w v stop j) x with prev := frameLevel d w v stop j }) ∨
    (j = stopSample d w ∧ frameLevel d w v stop j = stop ∧ ∃ prev, x = frameRx w v rx prev (dataBits w) 1) := by
  obtain ⟨prev, b, c, hb, hc, hmax, hj, rfl⟩ := h
  have hlt := d.isLt
  have hpos : 0 < d.toNat := BitVec.toNat_pos_of_ne_zero hne
  have hlast : b * d.toNat ≤ dataBits w * d.toNat := Nat.mul_le_mul_right _ hb
  unfold stopSample
  rcases Nat.lt_or_ge 1 c with hmore | hend
  · refine .inl ⟨by omega, frameLevel d w v stop j, b, c - 1, hb, by omega, by omega, by omega, ?_⟩
    rw [rxTick_frameRx_counting d w cfg v rx prev _ hmore (by omega)]
    rfl
  · obtain rfl : c = 1 := by omega
    have hlevel := frameLevel_of_samplePoint hne w v stop (j := j) (b := b) (by omega)
    rcases Nat.lt_or_eq_of_le hb with hdata | rfl
    · have hbit : frameBit w v stop (b + 1) = v.getLsbD b := by simp [frameBit, Nat.succ_le_of_lt hdata]
      have hnext : (b + 1) * d.toNat ≤ dataBits w * d.toNat := Nat.mul_le_mul_right _ hdata
      have hsucc : (b + 1) * d.toNat = b * d.toNat + d.toNat := Nat.succ_mul b _
      refine .inl ⟨by omega, v.getLsbD b, b + 1, d.toNat, hdata, hpos, by omega, by omega, ?_⟩
      rw [hlevel, hbit, rxTick_frameRx_sample d w cfg v rx prev hdata]
      rfl
    · exact .inr ⟨by omega, by simp [hlevel, frameBit], prev, rfl⟩

-- ---------------------------------------------------------------- a run that receives a frame

theorem step_rx_of_quiet {s t : State} {ops : List (BitVec 4)} (h : step s = .next t)
    (hquiet : quietFor ops s.nextInput) (h2 : 2 ∈ ops) (h5 : 5 ∈ ops) :
    t.rx = { rxTick s.div s.rxWCfg s.nextInput.lineIn s.rx with prev := s.nextInput.lineIn } := by
  obtain hrx | ⟨hp, -⟩ | ⟨v, hp, -⟩ := step_rx h hquiet.1
  · simpa using hrx
  · exact absurd h2 (not_mem_of_quietFor hquiet hp)
  · exact absurd h5 (not_mem_of_quietFor hquiet hp)

/-- An event of a step leaves its sticky bit set. -/
theorem sticky_of_event {s t : State} (h : step s = .next t) (hrst : s.nextInput.rst = false) (b : StickyBit)
    (hev : t.ev.get b = true) : t.sticky.get b = true := by
  rw [(stickyBitsSetAndClear s t b h hrst).1, hev, Bool.or_true]

/-- What the step of the stop sample leaves (R49): the byte, or a framing error. -/
def frameReceived (w : DataWidth) (v : Byte) (stop : Bool) (s t : State) : Prop :=
  t.rx.state = .idle ∧
  (stop = true → t.rx.data = lowBits w v ∧ t.rx.ready = true ∧ t.line.fe = false ∧
    (s.rx.ready = true → t.sticky.ovr = true)) ∧
  (stop = false → t.rx.data = s.rx.data ∧ t.rx.ready = s.rx.ready ∧ t.line.fe = true ∧ t.sticky.feev = true)

theorem step_stopSample {ops : List (BitVec 4)} (h2 : 2 ∈ ops) (h5 : 5 ∈ ops) {w : DataWidth} {v : Byte} {stop prev : Bool}
    {s u t : State} (hu : u.rx = frameRx w v s.rx prev (dataBits w) 1) (hline : u.nextInput.lineIn = stop)
    (hquiet : quietFor ops u.nextInput) (h : step u = .next t) : frameReceived w v stop s t := by
  have hstate : u.rx.state = .stopCheck := by rw [hu, frameRx_state_of_stop]
  have hcnt : u.rx.cnt = 1 := by rw [hu]; rfl
  have hready : u.rx.ready = s.rx.ready := by rw [hu]; rfl
  have hrx := step_rx_of_quiet h hquiet h2 h5
  rw [hu, rxTick_frameRx_stop, hline] at hrx
  obtain ⟨hfeev, hovr, -⟩ := eventsOfAStep u t h hquiet.1
  refine ⟨?_, ?_, ?_⟩
  · rw [hrx]
    cases stop <;> rfl
  · rintro rfl
    have hfe := (highLineEndsBreak.1 u.takeInput hline).1
    rw [step_line h hquiet.1, hfe, hrx]
    refine ⟨lowBits_firstBits w v, rfl, rfl, fun hs => sticky_of_event h hquiet.1 .ovr (hovr.2 ?_)⟩
    exact ⟨hstate, hcnt, hline, hready.trans hs⟩
  · rintro rfl
    obtain ⟨-, -, hfe, -⟩ := highLineEndsBreak.2 u.takeInput hline
    have hfe := hfe.2 (.inr (.inr ⟨hstate, hcnt⟩))
    rw [step_line h hquiet.1, hfe, hrx]
    exact ⟨rfl, rfl, rfl, sticky_of_event h hquiet.1 .feev (hfeev.2 ⟨hstate, hcnt, hline⟩)⟩

/-- A start edge in `IDLE` arms the receiver. -/
theorem rxTick_start {d : BitVec 16} (hne : d ≠ 0) (w : DataWidth) (v : Byte) {rx : Rx} (hidle : rx.state = .idle)
    (hprev : rx.prev = true) : receiving d w v rx 1 { rxTick d w false rx with prev := false } := by
  have hfirst := firstSample_le d
  have hpos := firstSample_pos hne
  refine ⟨false, 0, firstSample d, Nat.zero_le _, hpos, hfirst, by omega, ?_⟩
  rw [rxTick_of_idle _ _ _ hidle, rxIdle_eq, if_pos ⟨hprev, rfl⟩, frameRx, firstBits_zero]
  rfl

/-- The state after `j` samples of the frame on the line: not begun, in the frame, or past the stop sample. -/
def receptionRun (s : State) (v : Byte) (stop : Bool) (j : Nat) (u : State) : Prop :=
  (j = 0 → u = s) ∧
  (0 < j → j ≤ stopSample s.div s.rxWCfg → u.div = s.div ∧ receiving s.div s.rxWCfg v s.rx j u.rx) ∧
  (j = stopSample s.div s.rxWCfg + 1 → frameReceived s.rxWCfg v stop s u)

theorem receptionRun_step {ops : List (BitVec 4)} (h2 : 2 ∈ ops) (h5 : 5 ∈ ops) {s u t : State} {v : Byte} {stop : Bool}
    {j : Nat} (hne : s.div ≠ 0) (hidle : s.rx.state = .idle) (hprev : s.rx.prev = true)
    (hj : j ≤ stopSample s.div s.rxWCfg) (hline : u.nextInput.lineIn = frameLevel s.div s.rxWCfg v stop j)
    (hu : receptionRun s v stop j u) (hquiet : quietFor ops u.nextInput) (h : step u = .next t) :
    receptionRun s v stop (j + 1) t := by
  obtain ⟨hstart, hframe, -⟩ := hu
  have hrx := step_rx_of_quiet h hquiet h2 h5
  have hdiv := step_div_of_quiet h hquiet h5
  have hsample : 0 < stopSample s.div s.rxWCfg := by
    have := firstSample_pos hne
    unfold stopSample
    omega
  refine ⟨nofun, fun _ hj' => ?_, fun hj' => ?_⟩
  · rcases Nat.eq_zero_or_pos j with rfl | hpos
    · obtain rfl := hstart rfl
      have hlow : u.nextInput.lineIn = false := by rw [hline, frameLevel_eq, Nat.zero_div]; rfl
      rw [hrx, hdiv, hlow]
      exact ⟨rfl, rxTick_start hne _ v hidle hprev⟩
    · obtain ⟨hdivu, hreceiving⟩ := hframe hpos hj
      rw [hrx, hdiv, hline, hdivu]
      obtain ⟨-, hnext⟩ | ⟨hend, -⟩ := rxTick_receiving hne u.rxWCfg stop hreceiving
      · exact ⟨rfl, hnext⟩
      · omega
  · obtain ⟨-, hreceiving⟩ := hframe (by omega) hj
    obtain ⟨hin, -⟩ | ⟨-, hstop, prev, hstate⟩ := rxTick_receiving hne u.rxWCfg stop hreceiving
    · omega
    · exact step_stopSample h2 h5 hstate (hline.trans hstop) hquiet h

/-- Settles O35: the induction along the frame, from its start edge to its stop sample. -/
theorem frameOnLineIsReceived : Obligations.FrameOnLineIsReceived := by
  intro s v stop hwf hne hidle hprev hquiet hlines
  have hzero : receptionRun s v stop 0 s := ⟨fun _ => rfl, fun h => absurd h (lt_irrefl 0), nofun⟩
  obtain ⟨t, ht, -, -, hend⟩ := run_induction hwf hquiet hzero fun j u u' hj hu _ hnext hq hstep => by
    have hline := hlines j (by omega)
    rw [List.getElem?_map, hnext] at hline
    exact receptionRun_step (by simp) (by simp) hne hidle hprev (by omega) (Option.some.inj hline) hu hq hstep
  exact ⟨t, ht, hend rfl⟩

-- ---------------------------------------------------------------- the sent byte is received (R50)

theorem stopSample_lt_frameSteps {d : BitVec 16} (hne : d ≠ 0) (w : DataWidth) : stopSample d w < frameSteps d w := by
  have hpos : 0 < d.toNat := BitVec.toNat_pos_of_ne_zero hne
  have hmul : (dataBits w + 2) * d.toNat = dataBits w * d.toNat + 2 * d.toNat := Nat.add_mul ..
  simp only [stopSample, firstSample, halfBit, frameSteps]
  omega

/-- Settles O36: the transmitter's line is the frame's, level by level, and the receiver takes a frame on its line. -/
theorem sentByteIsReceived : Obligations.SentByteIsReceived := by
  intro s s₁ r b hwf hne hidle h hquiet hrwf hdiv hwidth hridle hprev hrquiet hlines
  have hlt := stopSample_lt_frameSteps hne s.txWCfg
  have hlevels : ∀ j, j ≤ stopSample s.div s.txWCfg →
      (r.inputs.map (·.lineIn))[j]? = some (frameLevel s.div s.txWCfg b true j) := by
    intro j hj
    obtain ⟨u, hu, hsending, -⟩ := transmittedFrameWaveform.2 s s₁ b j hwf hne hidle h (by omega)
      (quietRun_mono hquiet hj (List.Subset.refl _))
    rw [hlines j u hj hu, (hsending (by omega)).2]
  rw [← hdiv, ← hwidth] at hlevels hrquiet ⊢
  obtain ⟨t, ht, -, hreceived, -⟩ :=
    frameOnLineIsReceived r b true hrwf (hdiv ▸ hne) hridle hprev hrquiet hlevels
  obtain ⟨hdata, hready, -⟩ := hreceived rfl
  exact ⟨t, ht, hready, hdata⟩

-- ---------------------------------------------------------------- a low line becomes a break (R51)

/-- The state after `j` low steps of a line that was not low. -/
def lowRun (s : State) (j : Nat) (u : State) : Prop :=
  u.div = s.div ∧ u.rxWCfg = s.rxWCfg ∧ u.rx.n = s.rxWCfg ∧ u.line.lowcnt.toNat = min j 1048575 ∧
  (u.line.brk = true ↔ frameSteps s.div s.rxWCfg < j) ∧ (frameSteps s.div s.rxWCfg < j → u.line.fe = true)

/-- A frame is shorter than the largest low count. -/
theorem frameSteps_lt (d : BitVec 16) (w : DataWidth) : frameSteps d w < 1048575 := by
  have hd := d.isLt
  have hw := (dataBits_le w).2
  have hle : (dataBits w + 2) * d.toNat ≤ 10 * d.toNat := Nat.mul_le_mul_right _ (by omega)
  unfold frameSteps
  omega

theorem step_rxWCfg_of_quiet {s t : State} {ops : List (BitVec 4)} (h : step s = .next t)
    (hquiet : quietFor ops s.nextInput) (h6 : 6 ∈ ops) : t.rxWCfg = s.rxWCfg := by
  obtain ⟨hr, -⟩ | ⟨r, x, hp, -⟩ := step_widths h hquiet.1
  · exact hr
  · exact absurd h6 (not_mem_of_quietFor hquiet hp)

theorem lowRun_step {ops : List (BitVec 4)} (h5 : 5 ∈ ops) (h6 : 6 ∈ ops) {s u t : State} {j : Nat}
    (hu : lowRun s j u) (hlow : u.nextInput.lineIn = false) (hquiet : quietFor ops u.nextInput)
    (h : step u = .next t) : lowRun s (j + 1) t := by
  obtain ⟨hdiv, hcfg, hn, hcount, hbrk, hfe⟩ := hu
  have hframe := frameSteps_lt s.div s.rxWCfg
  have hwidth : (if u.takeInput.rx.state = .idle then u.takeInput.rxWCfg else u.takeInput.rx.n) = s.rxWCfg := by
    rw [takeInput_rxWCfg, takeInput_rx, hcfg, hn, ite_self]
  obtain ⟨hcount', hbrk', hfe', -⟩ := highLineEndsBreak.2 u.takeInput hlow
  have hlong : (dataBits s.rxWCfg + 2) * s.div.toNat = frameSteps s.div s.rxWCfg := rfl
  rw [takeInput_line, hcount] at hcount'
  rw [hwidth, takeInput_line, takeInput_div, hcount, hdiv, hlong] at hbrk' hfe'
  unfold lowRun
  rw [step_line h hquiet.1]
  refine ⟨(step_div_of_quiet h hquiet h5).trans hdiv, (step_rxWCfg_of_quiet h hquiet h6).trans hcfg,
    (step_rx_n h hquiet.1).trans hwidth, ?_, ?_, fun hj => hfe'.2 ?_⟩
  · rw [hcount']; omega
  · rw [hbrk', hbrk]; omega
  · right; left; omega

/-- Settles O37: the low count is the number of low steps. -/
theorem lowLineBecomesBreak : Obligations.LowLineBecomesBreak := by
  intro s k hwf hline hn hquiet hlow
  have hzero : lowRun s 0 s := by simp [lowRun, hline, hn]
  obtain ⟨t, ht, -, -, -, -, hbrk, hfe⟩ := run_induction hwf hquiet hzero fun j u u' hj hu _ hnext hq hstep => by
    have hmem : u.nextInput ∈ s.inputs.take k :=
      List.mem_of_getElem? (i := j) (by rw [List.getElem?_take_of_lt hj]; exact hnext)
    exact lowRun_step (by simp) (by simp) hu (hlow _ hmem) hq hstep
  exact ⟨t, ht, hbrk, hfe⟩

end Sys2Proof.Proofs.Reception
